-- ==== Sys2Proof/Word.lean ====
section
/-! DEFINITION. The word types of the core (`00_scope.md` R7): bytes, hex digits, 32-bit register
words and 16-byte blocks. Everything that computes on them stands under `Sys2Proof/Machine/`. -/

namespace Sys2Proof

/-- A byte (R7): 8 bits, bit 7 the most significant. -/
abbrev Byte := BitVec 8

/-- One hex digit value, 0 to 15 (R19, R156). -/
abbrev Nibble := BitVec 4

/-- A 32-bit word: the contents of a word register (R20), a command word (R60), a SHA-256 word (R170). -/
abbrev Word := BitVec 32

/-- A 16-byte block (R9, R100), first byte first. -/
abbrev Block := Vector Byte 16

end Sys2Proof
end

