-- ==== Sys2Proof/Config.lean ====
section
/-! DEFINITION. What is fixed for one core (`00_scope.md` R6): the capacities, the default of `BUFCAP`, and
the two external parties, the Argon2id bridge and the random source, as constants nothing is known of. -/

namespace Sys2Proof

/-- `PWCAP`, capacity of `PWD` in bytes (R6). -/
abbrev Config.pwCap : Nat := 256

/-- `SALTCAP`, capacity of `SALT` in bytes (R6). -/
abbrev Config.saltCap : Nat := 64

/-- `KMCAP`, capacity of `KMAT` in bytes (R6). -/
abbrev Config.kmCap : Nat := 64

/-- `IVNCAP`, capacity of `IVNIB` in hex digits (R6). -/
abbrev Config.ivnCap : Nat := 64

/-- The default of `BUFCAP` (R6). `BUFCAP` itself is "an argument of the model": a field of `State` that no
step changes (log entry 2, DESIGN CHOICE). -/
abbrev Config.defaultBufCap : Nat := 4096

/-- The values R6 allows for `BUFCAP`. -/
abbrev Config.legalBufCap (n : Nat) : Prop := 1 ≤ n ∧ n ≤ 65520

/-- `ARGON2ID(pw, salt)` (R162): "an uninterpreted total function of `(pw, salt)` alone", `none` where the
bridge answers Reject. A FREE VALUE (log entry 5, DEDUCED): it has no body, so no proof knows an answer of it. -/
opaque Config.argon2id : List Byte → List Byte → Option (Vector Byte 48)

/-- The random source (R163): byte `n` of all the bytes it ever gives. A FREE VALUE (log entry 4, DESIGN CHOICE): it has no
body; `State.randCount` says how many bytes were drawn, so that every draw is new. -/
opaque Config.randByte : Nat → Byte

end Sys2Proof
end

