-- ==== Sys2Proof/Fields.lean ====
section
/-! DEFINITION. What the fields of a command word name (`30_encoding.md` R60, R65) and what the host can
do to the core (`20_memory.md` R41, `70_reset_and_hazards.md` R220). Bit patterns stand in
`Sys2Proof/Decode.lean`, meanings under `Sys2Proof/Machine/`. -/

namespace Sys2Proof

/-- KeySize, "enumerated {128, 192, 256} bits" (R9). The `KS` field and the registers `KSIZE`, `RKSIZE`
have a fourth value, 3: `none` of `Option KeySize` (unspecified, or none selected). -/
inductive KeySize where
  | k128
  | k192
  | k256
  deriving DecidableEq, Repr

/-- Mode, "enumerated {ECB, CBC, CTR}" (R9). The `MD` field's fourth value, 3 (none selected), is `none`
of `Option Mode`. -/
inductive Mode where
  | ecb
  | cbc
  | ctr
  deriving DecidableEq, Repr

/-- Direction (R9), the `DIR` field: 0 = Encrypt, 1 = Decrypt. -/
inductive Dir where
  | encrypt
  | decrypt
  deriving DecidableEq, Repr

/-- Key derivation function, the `KDF` field: 0 = PBKDF2 (iterations in `ITER`), 1 = Argon2id. -/
inductive Kdf where
  | pbkdf2
  | argon2id
  deriving DecidableEq, Repr

/-- Framing convention, the `FR` field: 0 = "Salted__" + salt, 1 = raw IV. -/
inductive Framing where
  | salted
  | rawIv
  deriving DecidableEq, Repr

/-- What the world outside can do to the core: the host's accesses `MemRead`/`MemWrite` of width 4 and 1
at a byte offset of the register space (R41; "no other width exists"), and the one reset, "applied from
outside" (R220). -/
inductive HostEvent where
  | readWord  (off : Nat)
  | readByte  (off : Nat)
  | writeWord (off : Nat) (v : Word)
  | writeByte (off : Nat) (b : Byte)
  | reset
  deriving DecidableEq, Repr

/-- What a host read answers (R41): the 32-bit value of a word register, or one byte. -/
inductive ReadData where
  | word (v : Word)
  | byte (b : Byte)
  deriving DecidableEq, Repr

end Sys2Proof
end

