-- ==== Sys2Proof/Syntax.lean ====
section
/-! DEFINITION. The 13 commands (`30_encoding.md` R62), one constructor per row of the opcode table. A
constructor carries exactly the fields its command uses; every other bit of the word is 0 (R64). -/

namespace Sys2Proof

/-- A decoded command. `none` for `ks` is `KS = 3`, `none` for `md` is `MD = 3` (R65); `np`, `q`, `rnd`
are the bits `NP`, `Q`, `RND`. -/
inductive Instr where
  | kexp
  | encb
  | decb
  | apply (md : Option Mode) (dir : Dir)
  | pada (np : Bool)
  | padr (np : Bool)
  | xform (md : Option Mode) (dir : Dir) (np : Bool)
  | draw (ks : Option KeySize) (q : Bool)
  | div (q : Bool) (rnd : Bool)
  | stretch (ks : Option KeySize) (kdf : Kdf)
  | saltgen
  | hdr (fr : Framing)
  | clr
  deriving DecidableEq, Repr

end Sys2Proof
end

