-- ==== Sys2Proof/WellFormed.lean ====
section
/-! DEFINITION. Well-formed commands and well-formed host events. A command has nothing left to check: each
operand type has exactly the values its field encodes. A host access does: `20_memory.md` R42 says which are
"the only well-formed host accesses". This file states R42, R44 and R46 as predicates of their own; the
machine decides an access in `Sys2Proof/Machine/HostAccess.lean`, and a statement says the two agree. -/

namespace Sys2Proof

/-- Every term of `Instr` is a well-formed command: all four values of `KS` and of `MD` are legal words
(R63: field values a command does not accept are not decode failures), and the other fields are one bit. -/
def Instr.wellFormed : Instr → Bool
  | .kexp => true
  | .encb => true
  | .decb => true
  | .apply _ _ => true
  | .pada _ => true
  | .padr _ => true
  | .xform _ _ _ => true
  | .draw _ _ => true
  | .div _ _ => true
  | .stretch _ _ => true
  | .saltgen => true
  | .hdr _ => true
  | .clr => true

/-- The byte windows of the address map (R46), as base and size, for a `BUFCAP` of `cap`. -/
def byteWindows (cap : Nat) : List (Nat × Nat) :=
  [(0x00040, 32), (0x00060, 16), (0x00070, 16), (0x00080, 16), (0x000C0, 48), (0x00100, 240),
   (0x00200, 64), (0x00240, 64), (0x00280, 64), (0x00300, 256), (0x10000, cap), (0x20000, cap + 16)]

/-- Is offset `off` a byte of some byte window of R46? -/
def inByteWindow (cap off : Nat) : Bool :=
  (byteWindows cap).any fun w => decide (w.1 ≤ off) && decide (off < w.1 + w.2)

/-- Is offset `off` that of a word register (R20, R46)? -/
def atWordRegister (off : Nat) : Bool :=
  decide (off % 4 = 0) && decide (off ≤ 0x28)

/-- Check 1 (R40): the event names an offset of the register space, 0x00000 to 0x2FFFF. -/
def HostEvent.inSpace : HostEvent → Bool
  | .readWord off => decide (off < 0x30000)
  | .readByte off => decide (off < 0x30000)
  | .writeWord off _ => decide (off < 0x30000)
  | .writeByte off _ => decide (off < 0x30000)
  | .reset => true

/-- Check 2 (R42): a word access is aligned, and below 0x40 every access is. -/
def HostEvent.aligned : HostEvent → Bool
  | .readWord off => decide (off % 4 = 0)
  | .readByte off => decide (off % 4 = 0) || decide (0x40 ≤ off)
  | .writeWord off _ => decide (off % 4 = 0)
  | .writeByte off _ => decide (off % 4 = 0) || decide (0x40 ≤ off)
  | .reset => true

/-- Check 3 (R42): no 4-byte access reaches into a byte window. -/
def HostEvent.noWordInWindow (cap : Nat) : HostEvent → Bool
  | .readWord off => (List.range 4).all fun i => !inByteWindow cap (off + i)
  | .writeWord off _ => (List.range 4).all fun i => !inByteWindow cap (off + i)
  | .readByte _ => true
  | .writeByte _ _ => true
  | .reset => true

/-- Check 4 (R42): no 1-byte access to a word register. -/
def HostEvent.noByteOfRegister : HostEvent → Bool
  | .readByte off => !atWordRegister off
  | .writeByte off _ => !atWordRegister off
  | .readWord _ => true
  | .writeWord _ _ => true
  | .reset => true

/-- A well-formed host event (R40, R42) of a core whose `BUFCAP` is `cap`: all four checks hold. -/
def HostEvent.wellFormed (cap : Nat) (e : HostEvent) : Bool :=
  e.inSpace && e.aligned && e.noWordInWindow cap && e.noByteOfRegister

end Sys2Proof
end

