-- ==== Sys2Proof/Decode.lean ====
section
/-! DEFINITION. The command word (`30_encoding.md` R60 to R66): the decoder, total on all 2^32 words and
rejecting by name, and after it the encoder, both written from R60, R62 and R68. -/

namespace Sys2Proof

/-- Why a word is illegal (R64): its `OP` is 0x0, 0xE or 0xF, or it has a 1 in a bit its command does not use. -/
inductive DecodeError where
  | reservedOpcode
  | reservedEncoding
  deriving DecidableEq, Repr

/-- One row of the table of R62, named by its mnemonic. -/
inductive Opcode where
  | kexp | encb | decb | apply | pada | padr | xform | draw | div | stretch | saltgen | hdr | clr
  deriving DecidableEq, Repr

/-- The number of each opcode in the field `OP` (R62). -/
def Opcode.number : Opcode → BitVec 4
  | .kexp => 0x1
  | .encb => 0x2
  | .decb => 0x3
  | .apply => 0x4
  | .pada => 0x5
  | .padr => 0x6
  | .xform => 0x7
  | .draw => 0x8
  | .div => 0x9
  | .stretch => 0xA
  | .saltgen => 0xB
  | .hdr => 0xC
  | .clr => 0xD

/-- All opcodes, in the order of R62. -/
def Opcode.all : List Opcode :=
  [.kexp, .encb, .decb, .apply, .pada, .padr, .xform, .draw, .div, .stretch, .saltgen, .hdr, .clr]

/-- The column `match` of R62. -/
def Opcode.pattern : Opcode → Word
  | .kexp => 0x00000001
  | .encb => 0x00000002
  | .decb => 0x00000003
  | .apply => 0x00000004
  | .pada => 0x00000005
  | .padr => 0x00000006
  | .xform => 0x00000007
  | .draw => 0x00000008
  | .div => 0x00000009
  | .stretch => 0x0000000A
  | .saltgen => 0x0000000B
  | .hdr => 0x0000000C
  | .clr => 0x0000000D

/-- The column `mask` of R62: a word `w` encodes the command iff `w &&& mask = match`. -/
def Opcode.mask : Opcode → Word
  | .kexp => 0xFFFFFFFF
  | .encb => 0xFFFFFFFF
  | .decb => 0xFFFFFFFF
  | .apply => 0xFFFFFE3F
  | .pada => 0xFFFFFDFF
  | .padr => 0xFFFFFDFF
  | .xform => 0xFFFFFC3F
  | .draw => 0xFFFFF7CF
  | .div => 0xFFFFE7FF
  | .stretch => 0xFFFFFBCF
  | .saltgen => 0xFFFFFFFF
  | .hdr => 0xFFFFDFFF
  | .clr => 0xFFFFFFFF

/-- The opcode of a word, from its bits 3:0; `none` for 0x0, 0xE and 0xF (R63 step 1). -/
def opcodeOf (w : Word) : Option Opcode :=
  Opcode.all.find? fun o => o.number == w.extractLsb' 0 4

/-- What the two bits of `KS`, of `KSIZE` or of `RKSIZE` select (R20, R60): 0, 1, 2 a key size, 3 none. -/
def keySizeOfCode (c : BitVec 2) : Option KeySize :=
  if c = 0 then some .k128 else if c = 1 then some .k192 else if c = 2 then some .k256 else none

/-- The two bits of a key size (R20, R60). -/
def KeySize.code : KeySize → BitVec 2
  | .k128 => 0
  | .k192 => 1
  | .k256 => 2

/-- The field `KS` of an operand: 3 where it is unspecified (R60). -/
def keySizeField (ks : Option KeySize) : BitVec 2 :=
  match ks with
  | some k => k.code
  | none => 3

/-- What the field `MD` selects (R60): 0 = ECB, 1 = CBC, 2 = CTR, 3 = none. -/
def modeOfCode (c : BitVec 2) : Option Mode :=
  if c = 0 then some .ecb else if c = 1 then some .cbc else if c = 2 then some .ctr else none

/-- The field `MD` of an operand (R60). -/
def modeField (md : Option Mode) : BitVec 2 :=
  match md with
  | some .ecb => 0
  | some .cbc => 1
  | some .ctr => 2
  | none => 3

/-- The field `DIR` (R60): 0 = Encrypt, 1 = Decrypt. -/
def dirOfBit (b : Bool) : Dir := if b then .decrypt else .encrypt

/-- The bit `DIR` of a direction. -/
def Dir.bit : Dir → Bool
  | .encrypt => false
  | .decrypt => true

/-- The field `KDF` (R60): 0 = PBKDF2, 1 = Argon2id. -/
def kdfOfBit (b : Bool) : Kdf := if b then .argon2id else .pbkdf2

/-- The bit `KDF` of a key derivation function. -/
def Kdf.bit : Kdf → Bool
  | .pbkdf2 => false
  | .argon2id => true

/-- The field `FR` (R60): 0 = "Salted__" + salt, 1 = raw IV. -/
def framingOfBit (b : Bool) : Framing := if b then .rawIv else .salted

/-- The bit `FR` of a framing convention. -/
def Framing.bit : Framing → Bool
  | .salted => false
  | .rawIv => true

/-- The command a word of this opcode is, its field values read from R60's bit positions (R63 step 3). -/
def Opcode.instr (w : Word) : Opcode → Instr
  | .kexp => .kexp
  | .encb => .encb
  | .decb => .decb
  | .apply => .apply (modeOfCode (w.extractLsb' 6 2)) (dirOfBit (w.getLsbD 8))
  | .pada => .pada (w.getLsbD 9)
  | .padr => .padr (w.getLsbD 9)
  | .xform => .xform (modeOfCode (w.extractLsb' 6 2)) (dirOfBit (w.getLsbD 8)) (w.getLsbD 9)
  | .draw => .draw (keySizeOfCode (w.extractLsb' 4 2)) (w.getLsbD 11)
  | .div => .div (w.getLsbD 11) (w.getLsbD 12)
  | .stretch => .stretch (keySizeOfCode (w.extractLsb' 4 2)) (kdfOfBit (w.getLsbD 10))
  | .saltgen => .saltgen
  | .hdr => .hdr (framingOfBit (w.getLsbD 13))
  | .clr => .clr

/-- The decoding procedure of R63, in its three steps: reserved opcode, reserved encoding, command. -/
def decode (w : Word) : Except DecodeError Instr :=
  match opcodeOf w with
  | none => .error .reservedOpcode
  | some o => if w &&& o.mask = o.pattern then .ok (o.instr w) else .error .reservedEncoding

/-- One bit of a command word at its place. -/
def bitAt (b : Bool) (n : Nat) : Word :=
  (BitVec.ofBool b).setWidth 32 <<< n

/-- A two-bit field of a command word at its place. -/
def fieldAt (f : BitVec 2) (n : Nat) : Word :=
  f.setWidth 32 <<< n

/-- The row of R62 a command belongs to. -/
def Instr.opcode : Instr → Opcode
  | .kexp => .kexp
  | .encb => .encb
  | .decb => .decb
  | .apply _ _ => .apply
  | .pada _ => .pada
  | .padr _ => .padr
  | .xform _ _ _ => .xform
  | .draw _ _ => .draw
  | .div _ _ => .div
  | .stretch _ _ => .stretch
  | .saltgen => .saltgen
  | .hdr _ => .hdr
  | .clr => .clr

/-- The fields of a command at their places, every other bit 0 (R60, R68). -/
def Instr.fields : Instr → Word
  | .kexp => 0
  | .encb => 0
  | .decb => 0
  | .apply md dir => fieldAt (modeField md) 6 ||| bitAt dir.bit 8
  | .pada np => bitAt np 9
  | .padr np => bitAt np 9
  | .xform md dir np => fieldAt (modeField md) 6 ||| bitAt dir.bit 8 ||| bitAt np 9
  | .draw ks q => fieldAt (keySizeField ks) 4 ||| bitAt q 11
  | .div q rnd => bitAt q 11 ||| bitAt rnd 12
  | .stretch ks kdf => fieldAt (keySizeField ks) 4 ||| bitAt kdf.bit 10
  | .saltgen => 0
  | .hdr fr => bitAt fr.bit 13
  | .clr => 0

/-- The command word (R68): `OP | KS<<4 | MD<<6 | DIR<<8 | NP<<9 | KDF<<10 | Q<<11 | RND<<12 | FR<<13`. -/
def encode (i : Instr) : Word :=
  i.opcode.number.setWidth 32 ||| i.fields

/-- The command the decoder reads from the low `nbits` bits of `w`, all higher bits of the word 0. A command
is one 32-bit word written whole, with no byte order (R41, R60). -/
def decodeTableWord (nbits w : Nat) : Option Instr :=
  match decode (BitVec.ofNat 32 (w % 2 ^ nbits)) with
  | .ok i => some i
  | .error _ => none

end Sys2Proof
end

