-- ==== Sys2Proof/Machine/State.lean ====
section
/-! DEFINITION. The state of the core (`10_state.md` R10 to R31), the errors a command can raise
(`60_exceptions.md` R200, R201), and the reasons a step can stop. Everything is plain data. -/

namespace Sys2Proof.Machine

/-- The four error kinds of R200. `decodingError` is "never generated by the core". -/
inductive ErrorKind where
  | configurationError
  | decodingError
  | derivationError
  | integrityError
  deriving DecidableEq, Repr

/-- The causes of R201, one per row, named as the table names them. -/
inductive Cause where
  | reservedOpcode
  | reservedEncoding
  | noCipherSelected
  | noModeSelected
  | missingKeyMaterial
  | noKeySchedule
  | missingIv
  | lengthAboveCapacity
  | zeroLengthPayload
  | saltNotEightBytes
  | shorterThanOneBlock
  | notWholeBlocks
  | padCountOutOfRange
  | stretchRejected
  deriving DecidableEq, Repr

/-- The register `STATUS` (R21), field by field; its reserved bits read 0 and are not stored.
`Status.word` (Flags.lean) is the 32-bit value the host reads. -/
structure Status where
  /-- bit 0, `BUSY` -/
  busy : Bool
  /-- bit 1, `DONE` -/
  done : Bool
  /-- bit 2, `ERR` -/
  err : Bool
  /-- bits 6:4, `ERRKIND` -/
  errKind : BitVec 3
  /-- bits 15:8, `CAUSE` -/
  cause : BitVec 8
  /-- bit 16, `KEYV` (R23) -/
  keyV : Bool
  /-- bit 17, `IVV` (R24) -/
  ivV : Bool
  /-- bit 18, `RKV` (R26) -/
  rkV : Bool
  /-- bit 24, `ADVS` (R25) -/
  advS : Bool
  /-- bit 25, `ADVL` (R25) -/
  advL : Bool
  deriving DecidableEq, Repr

/-- `STATUS` after reset (R31): 0x00000000. -/
def Status.reset : Status :=
  { busy := false, done := false, err := false, errKind := 0, cause := 0,
    keyV := false, ivV := false, rkV := false, advS := false, advL := false }

/-- The operand buffers of R19 as cells of the register space (R40, R46): register-space offset and byte,
offsets strictly rising, no cell holding 0x00. An unlisted offset reads 0x00, the reset contents of every
buffer (R19, R31). -/
abbrev Memory := List Host.Cell

/-- The state of the core: the word registers of R20 (`CMD` stores nothing), the byte-array registers of
R13 to R18, the operand buffers of R19 in `mem`; then `BUFCAP` and the four fields that are the model's own. The hidden
state of R30 (`CHN`, `S`, the SHA-256, HMAC and PBKDF2 values) is local to one command and no field. -/
structure State where
  /-- `STATUS`, offset 0x004 (R21) -/
  status : Status
  /-- `KSIZE`, offset 0x008, stored bits [1:0] (R20) -/
  kSize : BitVec 2
  /-- `RKSIZE`, offset 0x00C, stored bits [1:0] (R20) -/
  rkSize : BitVec 2
  /-- `ITER`, offset 0x010 (R20) -/
  iter : Word
  /-- `ILEN`, offset 0x014 (R20) -/
  iLen : Word
  /-- `OLEN`, offset 0x018 (R20) -/
  oLen : Word
  /-- `PWLEN`, offset 0x01C (R20) -/
  pwLen : Word
  /-- `SLEN`, offset 0x020 (R20) -/
  sLen : Word
  /-- `KMLEN`, offset 0x024 (R20) -/
  kmLen : Word
  /-- `IVNLEN`, offset 0x028 (R20) -/
  ivnLen : Word
  /-- `KEY[0..32)`, offset 0x040 (R13) -/
  key : Vector Byte 32
  /-- `IVR[0..16)`, offset 0x060 (R14) -/
  ivr : Block
  /-- `BLK[0..16)`, offset 0x070 (R15) -/
  blk : Block
  /-- `HDR[0..16)`, offset 0x080 (R18) -/
  hdr : Block
  /-- `STR[0..48)`, offset 0x0C0 (R17) -/
  str : Vector Byte 48
  /-- `RKS[0..240)`, offset 0x100 (R16) -/
  rks : Vector Byte 240
  /-- `SALT`, `IVNIB`, `KMAT`, `PWD`, `IBUF`, `OBUF` (R19), at their offsets of R46 -/
  mem : Memory
  /-- the parameter `BUFCAP` of this core (R6); no step changes it (log entry 2, DESIGN CHOICE) -/
  bufCap : Nat
  /-- MODEL'S OWN: how many bytes the random source has given; the free value of the next draw is
  `Config.randByte` of it (log entry 4, DESIGN CHOICE) -/
  randCount : Nat
  /-- MODEL'S OWN: what the host does next, in its program order, first event first (R51; log entry 3, DESIGN CHOICE) -/
  pending : List HostEvent
  /-- MODEL'S OWN: what the host's last read answered, none before the first (R41; log entry 3, DESIGN CHOICE) -/
  readData : Option ReadData
  /-- MODEL'S OWN: the host wrote `CMD` and has not read `BUSY = 0` in `STATUS` since (R226; log entry 18,
  DESIGN CHOICE) -/
  mustPoll : Bool
  deriving DecidableEq, Repr

/-- The machine right after reset (R31, R220): every byte 0x00, `KSIZE = RKSIZE = 3`, every length and `ITER`
0, `STATUS` 0. The model's own fields: the default `BUFCAP`, nothing drawn, no host event, nothing read,
no command to wait for. -/
def State.reset : State :=
  { status := Status.reset
    kSize := 3
    rkSize := 3
    iter := 0
    iLen := 0
    oLen := 0
    pwLen := 0
    sLen := 0
    kmLen := 0
    ivnLen := 0
    key := Vector.replicate 32 0
    ivr := Vector.replicate 16 0
    blk := Vector.replicate 16 0
    hdr := Vector.replicate 16 0
    str := Vector.replicate 48 0
    rks := Vector.replicate 240 0
    mem := []
    bufCap := Config.defaultBufCap
    randCount := 0
    pending := []
    readData := none
    mustPoll := false }

/-- Why a step stops with a fault. -/
inductive Fault where
  /-- Raised by a host access at an offset of 0x30000 or above: the register space has 0x30000 bytes (R40),
  so no such offset exists. SAFE: the model stops, and nothing is claimed of what a platform does there. -/
  | outsideRegisterSpace
  deriving DecidableEq, Repr

/-- Why a step is refused. -/
inductive Refusal where
  /-- Raised by `exec` alone, for a command that has no meaning yet. SAFE: the model stops. -/
  | notModelled (mnemonic : String)
  /-- Raised by a host access of a form R42 does not allow: "it is outside the host contract, the model gives
  it no meaning". SAFE: the model stops. -/
  | illFormedAccess
  /-- Raised by any host access but a read of `STATUS` while `BUSY = 1`: R52, "is refused by the model (no
  meaning)". SAFE: the model stops; commands being atomic, no run reaches such a state. -/
  | accessWhileBusy
  /-- Raised by any host access but a read of `STATUS` after a write of `CMD` and before a read of `STATUS` has
  returned `BUSY = 0`: R226, "the model refuses such a host sequence". SAFE: the model stops. -/
  | accessBeforePoll
  deriving DecidableEq, Repr

end Sys2Proof.Machine
end

