-- ==== Sys2Proof/Machine/Bytes.lean ====
section
/-! DEFINITION. Byte strings and byte orders: the helpers of `00_scope.md` R7 (`be32`, `be64`, `be128` and
their inverses, XOR of strings) and the fixed-size arrays commands fill. -/

namespace Sys2Proof.Machine

/-- The first `n` bytes of a byte string as an array, zero-filled on the right where the string is shorter:
"left-aligned, zero-padded on the right" (R150). -/
def vecOf (n : Nat) (l : List Byte) : Vector Byte n :=
  Vector.ofFn fun i => l.getD i.val 0

/-- Byte `i` of an array; 0x00 past its end, which no command asks for. -/
def byteAt {n : Nat} (v : Vector Byte n) (i : Nat) : Byte :=
  v.toList.getD i 0

/-- Array `v` with byte `i` replaced (`ARR[i] <- b`, R8). -/
def setByte {n : Nat} (v : Vector Byte n) (i : Nat) (b : Byte) : Vector Byte n :=
  v.setIfInBounds i b

/-- `a ^ b` on byte strings, byte by byte (R7); the result has the length of the shorter. -/
def xorBytes (a b : List Byte) : List Byte :=
  List.zipWith (fun x y => x ^^^ y) a b

/-- `a ^ b` on blocks (R7). -/
def xorBlock (a b : Block) : Block :=
  Vector.ofFn fun i => a[i] ^^^ b[i]

/-- `be32` (R7): the word of four bytes, the first the most significant. -/
def be32 (b0 b1 b2 b3 : Byte) : Word :=
  b0 ++ b1 ++ b2 ++ b3

/-- `be32inv` (R173): the four bytes of a word, the most significant first. -/
def be32inv (w : Word) : List Byte :=
  [w.extractLsb' 24 8, w.extractLsb' 16 8, w.extractLsb' 8 8, w.extractLsb' 0 8]

/-- `be64` (R171): the 8-byte big-endian form of a number. -/
def be64inv (n : Nat) : List Byte :=
  (List.range 8).map fun i => BitVec.ofNat 8 (n / 256 ^ (7 - i))

/-- `be128(B)` (R7): the integer value of 16 bytes read big-endian, `sum over i of B[i] * 256^(15-i)`. -/
def be128 (b : Block) : Nat :=
  b.toList.foldl (fun n x => n * 256 + x.toNat) 0

/-- `be128inv(n)` (R7): the 16 bytes of `n`, the most significant first. -/
def be128inv (n : Nat) : Block :=
  Vector.ofFn fun i => BitVec.ofNat 8 (n / 256 ^ (15 - i.val))

/-- The little string of hex digits' values `d[2j] << 4 | d[2j+1]`, two digits a byte, first digit high; an
odd last digit gets one zero nibble on its right (`NibDecode`, R156). -/
def nibDecode : List Nibble → List Byte
  | [] => []
  | [d] => [d ++ (0 : Nibble)]
  | h :: l :: rest => (h ++ l) :: nibDecode rest

end Sys2Proof.Machine
end

