-- ==== Sys2Proof/Machine/Flags.lean ====
section
/-! DEFINITION. The fields of `STATUS` (`10_state.md` R21 to R26): the word the host reads, what starting,
completing and failing a command do to them, and the numbers of error kinds and causes
(`60_exceptions.md` R200, R201). -/

namespace Sys2Proof.Machine

/-- `STATUS` as the host reads it (R21): reserved bits 3, 7, 23:19 and 31:26 read 0. -/
def Status.word (st : Status) : Word :=
  (0 : BitVec 6) ++ BitVec.ofBool st.advL ++ BitVec.ofBool st.advS ++ (0 : BitVec 5) ++
    BitVec.ofBool st.rkV ++ BitVec.ofBool st.ivV ++ BitVec.ofBool st.keyV ++ st.cause ++
    (0 : BitVec 1) ++ st.errKind ++ (0 : BitVec 1) ++ BitVec.ofBool st.err ++
    BitVec.ofBool st.done ++ BitVec.ofBool st.busy

/-- The start of a command (R50): "clears `DONE`, `ERR`, `ERRKIND`, `CAUSE`, `ADVS`, `ADVL` and sets `BUSY`". -/
def Status.started (st : Status) : Status :=
  { st with busy := true, done := false, err := false, errKind := 0, cause := 0,
            advS := false, advL := false }

/-- Successful completion (R50): `BUSY <- 0` and `DONE <- 1`. -/
def Status.completed (st : Status) : Status :=
  { st with busy := false, done := true }

/-- The number of an error kind in `ERRKIND` (R200). -/
def ErrorKind.number : ErrorKind → BitVec 3
  | .configurationError => 1
  | .decodingError => 2
  | .derivationError => 3
  | .integrityError => 4

/-- The kind each cause belongs to (R201). -/
def Cause.kind : Cause → ErrorKind
  | .reservedOpcode => .configurationError
  | .reservedEncoding => .configurationError
  | .noCipherSelected => .configurationError
  | .noModeSelected => .configurationError
  | .missingKeyMaterial => .configurationError
  | .noKeySchedule => .configurationError
  | .missingIv => .configurationError
  | .lengthAboveCapacity => .configurationError
  | .zeroLengthPayload => .configurationError
  | .saltNotEightBytes => .configurationError
  | .shorterThanOneBlock => .integrityError
  | .notWholeBlocks => .integrityError
  | .padCountOutOfRange => .integrityError
  | .stretchRejected => .derivationError

/-- The number of a cause in `CAUSE` (R201). -/
def Cause.number : Cause → BitVec 8
  | .reservedOpcode => 0x01
  | .reservedEncoding => 0x02
  | .noCipherSelected => 0x03
  | .noModeSelected => 0x04
  | .missingKeyMaterial => 0x05
  | .noKeySchedule => 0x06
  | .missingIv => 0x07
  | .lengthAboveCapacity => 0x08
  | .zeroLengthPayload => 0x09
  | .saltNotEightBytes => 0x0A
  | .shorterThanOneBlock => 0x20
  | .notWholeBlocks => 0x21
  | .padCountOutOfRange => 0x22
  | .stretchRejected => 0x30

/-- All causes (R201): "No other value of `CAUSE` occurs". -/
def Cause.all : List Cause :=
  [.reservedOpcode, .reservedEncoding, .noCipherSelected, .noModeSelected, .missingKeyMaterial,
   .noKeySchedule, .missingIv, .lengthAboveCapacity, .zeroLengthPayload, .saltNotEightBytes,
   .shorterThanOneBlock, .notWholeBlocks, .padCountOutOfRange, .stretchRejected]

/-- What `raise` writes into `STATUS` (R203): `ERR <- 1`, `ERRKIND`, `CAUSE`, `DONE <- 0`, `BUSY <- 0`. -/
def Status.raised (c : Cause) (st : Status) : Status :=
  { st with busy := false, done := false, err := true, errKind := c.kind.number, cause := c.number }

/-- The advisories of `DRAW` and `DIV` (R25, R152, R157): unless quiet, `ADVS` where the material has `n`
bytes and fewer than the `want` wanted, `ADVL` where more. -/
def Status.advise (q : Bool) (n want : Nat) (st : Status) : Status :=
  { st with advS := !q && decide (n < want), advL := !q && decide (want < n) }

/-- `KEYV <- 1`, `RKV <- 0` (R13, R26). -/
def Status.keyWritten (st : Status) : Status :=
  { st with keyV := true, rkV := false }

/-- `IVV <- 1` (R14). -/
def Status.ivWritten (st : Status) : Status :=
  { st with ivV := true }

/-- `RKV <- 0` (R26), after a write of `KSIZE`. -/
def Status.scheduleStale (st : Status) : Status :=
  { st with rkV := false }

/-- `RKV <- 1` (R26), after a successful `KEXP`. -/
def Status.scheduleReady (st : Status) : Status :=
  { st with rkV := true }

end Sys2Proof.Machine
end

