-- ==== Sys2Proof/Machine/Ops.lean ====
section
/-! DEFINITION. The named operations over memory and registers, each with the side effects the spec gives it
(`10_state.md` R13, R14, R20, R26), and error entry: `raise`, the one shared operation by which a command
ends with an error (`60_exceptions.md` R203), with `runCommand`, the shell of every command (`20_memory.md` R50). -/

namespace Sys2Proof.Machine

/-! ### Memory -/

/-- The canonical form: offsets strictly rising, no cell equal to what an unlisted offset reads as. -/
abbrev Memory.wf (m : Memory) : Prop :=
  m.Pairwise (fun a b => a.1 < b.1) ∧ ∀ c ∈ m, c.2 ≠ 0

/-- The byte at an offset: 0x00 where no cell is listed, the reset contents of every buffer (R19, R31). -/
def Memory.read : Memory → Nat → Byte
  | [], _ => 0
  | c :: m, a => if c.1 = a then c.2 else Memory.read m a

/-- The cells of a byte string stored from offset `a` on, zero bytes unlisted. -/
def cellsOf : Nat → List Byte → Memory
  | _, [] => []
  | a, b :: bs => if b = 0 then cellsOf (a + 1) bs else (a, b) :: cellsOf (a + 1) bs

/-- `ARR[a .. a + len S) <- S` (R8) on memory: the bytes `bs` from offset `a` on, all else as before. -/
def Memory.write (m : Memory) (a : Nat) (bs : List Byte) : Memory :=
  m.filter (fun c => decide (c.1 < a)) ++ cellsOf a bs ++
    m.filter (fun c => decide (a + bs.length ≤ c.1))

/-- `A[a .. a + n)` (R7) of memory, as a byte string. -/
def Memory.bytes (m : Memory) (a n : Nat) : List Byte :=
  (List.range n).map fun i => m.read (a + i)

/-! ### The operand buffers' places (R46) -/

/-- Offset of `SALT` (R19). -/
def saltBase : Nat := 0x200

/-- Offset of `IVNIB` (R19). -/
def ivnibBase : Nat := 0x240

/-- Offset of `KMAT` (R19). -/
def kmatBase : Nat := 0x280

/-- Offset of `PWD` (R19). -/
def pwdBase : Nat := 0x300

/-- Offset of `IBUF` (R19). -/
def ibufBase : Nat := 0x10000

/-- Offset of `OBUF` (R19). -/
def obufBase : Nat := 0x20000

/-! ### Register writes with side effects -/

/-- Any write to `KEY`, by the host or by a command, sets `KEYV <- 1`, `RKV <- 0` and `RKSIZE <- 3` (R13, R26). -/
def State.putKey (k : Vector Byte 32) (s : State) : State :=
  { s with key := k, rkSize := 3, status := s.status.keyWritten }

/-- Any write to `IVR` sets `IVV <- 1` (R14). -/
def State.putIvr (v : Block) (s : State) : State :=
  { s with ivr := v, status := s.status.ivWritten }

/-- A write to `KSIZE` sets `RKV <- 0` and `RKSIZE <- 3` (R20, R26). -/
def State.putKSize (c : BitVec 2) (s : State) : State :=
  { s with kSize := c, rkSize := 3, status := s.status.scheduleStale }

/-- A successful `KEXP` (R26, R95): the schedule, `RKSIZE <- KSIZE`, `RKV <- 1`. -/
def State.putSchedule (rks : Vector Byte 240) (s : State) : State :=
  { s with rks := rks, rkSize := s.kSize, status := s.status.scheduleReady }

/-- `OBUF[0 .. len out) <- out`, `OLEN <- len out` (R128, R140, R141, R145): "`OBUF` bytes at and above `OLEN`
keep whatever they held". -/
def State.putOutput (out : List Byte) (s : State) : State :=
  { s with mem := s.mem.write obufBase out, oLen := BitVec.ofNat 32 out.length }

/-- A write of `CMD` opens the window of R226: the host must wait for `BUSY = 0`. -/
def State.cmdWritten (s : State) : State :=
  { s with mustPoll := true }

/-- A read of `STATUS` that returns `BUSY = 0` closes the window of R226. -/
def State.statusRead (s : State) : State :=
  { s with mustPoll := s.mustPoll && s.status.busy }

/-- Every register and buffer of `10_state.md` at the value of R31, `STATUS` 0 (R190, R220); the model's own
fields stay. -/
def State.cleared (s : State) : State :=
  { State.reset with
      bufCap := s.bufCap, randCount := s.randCount, pending := s.pending, readData := s.readData,
      mustPoll := s.mustPoll }

/-! ### The random source -/

/-- The `n` bytes the next `RAND(n)` answers (R163): free values, none drawn before. -/
def State.randBytes (s : State) (n : Nat) : List Byte :=
  (List.range n).map fun i => Config.randByte (s.randCount + i)

/-- `n` bytes were drawn. -/
def State.drawn (n : Nat) (s : State) : State :=
  { s with randCount := s.randCount + n }

/-! ### Error entry and the shell of a command -/

/-- The state a command works on (R50): `STATUS` as the start of the command leaves it. -/
def State.started (s : State) : State :=
  { s with status := s.status.started }

/-- Successful completion (R50). -/
def State.completed (s : State) : State :=
  { s with status := s.status.completed }

/-- ERROR ENTRY (R203): "`raise` ends the command at once with this effect, and only this effect". Nothing but
`STATUS` changes; there is no handler, no saved return address and no mode change, and nothing to return from
(R205): the next command clears the indication as it starts. -/
def raise (c : Cause) (s : State) : State :=
  { s with status := s.status.raised c }

/-- A command as one atomic transition (R50, R203): it starts, and either all its results are there with `DONE`,
or only `STATUS` shows that it was attempted. -/
def runCommand (body : State → Except Cause State) (s : State) : Host.Outcome State Fault Refusal :=
  match body s.started with
  | .ok t => .next t.completed
  | .error c => .next (raise c s.started)

end Sys2Proof.Machine
end

