-- ==== Sys2Proof/Machine/Operands.lean ====
section
/-! DEFINITION. Every operand a command names (`20_memory.md` R48, `41_key_schedule.md` R90): the parameters of
a key size, the bytes of a buffer below its length register, and the schedule with its round count. Commands
address by index, and no command reads a buffer byte at or above its length register. -/

namespace Sys2Proof.Machine

/-- Nk, the key length in 32-bit words (R90). -/
def keyWords : KeySize → Nat
  | .k128 => 4
  | .k192 => 6
  | .k256 => 8

/-- Nr, the number of rounds (R90). -/
def rounds : KeySize → Nat
  | .k128 => 10
  | .k192 => 12
  | .k256 => 14

/-- `bits/8`, the number of significant key bytes (R152, R160). -/
def keyBytes : KeySize → Nat
  | .k128 => 16
  | .k192 => 24
  | .k256 => 32

/-- The key size `KSIZE` selects, none for 3 (R20). -/
def State.selectedSize (s : State) : Option KeySize :=
  keySizeOfCode s.kSize

/-- The round count of the schedule in `RKS`, where there is one: `RKV = 1`, and `Nr` by `RKSIZE` (R110, R128).
`RKV = 1` with `RKSIZE = 3` is a state no run reaches; it counts as no schedule (log entry 7, DESIGN CHOICE). -/
def State.scheduleRounds (s : State) : Option Nat :=
  if s.status.rkV then (keySizeOfCode s.rkSize).map rounds else none

/-- `IBUF[0 .. ILEN)` (R19). -/
def State.payload (s : State) : List Byte :=
  s.mem.bytes ibufBase s.iLen.toNat

/-- `KMAT[0 .. KMLEN)` (R19). -/
def State.keyMaterial (s : State) : List Byte :=
  s.mem.bytes kmatBase s.kmLen.toNat

/-- `PWD[0 .. PWLEN)` (R19). -/
def State.password (s : State) : List Byte :=
  s.mem.bytes pwdBase s.pwLen.toNat

/-- `SALT[0 .. SLEN)` (R19). -/
def State.salt (s : State) : List Byte :=
  s.mem.bytes saltBase s.sLen.toNat

/-- `IVNIB[0 .. IVNLEN)` as digit values: the low nibble of each stored byte (R19). -/
def State.ivDigits (s : State) : List Nibble :=
  (s.mem.bytes ivnibBase s.ivnLen.toNat).map fun b => b.setWidth 4

/-- The cause, if any, that the payload's length gives every buffer command (R127 a, R128, R140, R141, R145):
above `BUFCAP`, else zero. -/
def State.payloadCause (s : State) : Option Cause :=
  if s.bufCap < s.iLen.toNat then some .lengthAboveCapacity
  else if s.iLen.toNat = 0 then some .zeroLengthPayload
  else none

/-- The cause, if any, where whole blocks are needed (R127 b): shorter than one, else not a multiple of 16. -/
def State.wholeBlocksCause (s : State) : Option Cause :=
  if s.iLen.toNat < 16 then some .shorterThanOneBlock
  else if s.iLen.toNat % 16 ≠ 0 then some .notWholeBlocks
  else none

end Sys2Proof.Machine
end

