-- ==== Sys2Proof/Machine/BlockTransform.lean ====
section
/-! DEFINITION. The block transform (`42_block_transform.md` R100 to R114) and its commands `ENCB` and `DECB`.
The working state `S` is a block; cell (row `r`, column `c`) is byte `r + 4c` (R100). -/

namespace Sys2Proof.Machine

/-- `AddRoundKey(S, k)` (R101). -/
def addRoundKey (rks : Vector Byte 240) (k : Nat) (s : Block) : Block :=
  Vector.ofFn fun i => s[i] ^^^ byteAt rks (16 * k + i.val)

/-- `SubBytes` (R102). -/
def subBytes (s : Block) : Block := Vector.ofFn fun i => sbox s[i]

/-- `InvSubBytes` (R105). -/
def invSubBytes (s : Block) : Block := Vector.ofFn fun i => invSbox s[i]

/-- `ShiftRows` (R103): `S'[i] = S[P[i]]`, row `r` rotated left by `r` cells. -/
def shiftRows (s : Block) : Block :=
  #v[s[0], s[5], s[10], s[15], s[4], s[9], s[14], s[3], s[8], s[13], s[2], s[7], s[12], s[1], s[6], s[11]]

/-- `InvShiftRows` (R106): `S'[i] = S[Q[i]]`, row `r` rotated right by `r` cells. -/
def invShiftRows (s : Block) : Block :=
  #v[s[0], s[13], s[10], s[7], s[4], s[1], s[14], s[11], s[8], s[5], s[2], s[15], s[12], s[9], s[6], s[3]]

/-- One cell of a mixed column (R104, R108): the four products of a row of coefficients and a column. -/
def mixCell (k0 k1 k2 k3 a0 a1 a2 a3 : Byte) : Byte :=
  gmul k0 a0 ^^^ gmul k1 a1 ^^^ gmul k2 a2 ^^^ gmul k3 a3

/-- The columns of a state, each mixed by the circulant of the coefficients `k0 k1 k2 k3`: row `r` has them
rotated right by `r`, the shape of both matrices of R104 and R108. -/
def mixBy (k0 k1 k2 k3 : Byte) (s : Block) : Block :=
  Vector.ofFn fun i =>
    let c := 4 * (i.val / 4)
    let a0 := byteAt s c
    let a1 := byteAt s (c + 1)
    let a2 := byteAt s (c + 2)
    let a3 := byteAt s (c + 3)
    if i.val % 4 = 0 then mixCell k0 k1 k2 k3 a0 a1 a2 a3
    else if i.val % 4 = 1 then mixCell k3 k0 k1 k2 a0 a1 a2 a3
    else if i.val % 4 = 2 then mixCell k2 k3 k0 k1 a0 a1 a2 a3
    else mixCell k1 k2 k3 k0 a0 a1 a2 a3

/-- `MixColumns` (R104): coefficients 02 03 01 01. -/
def mixColumns (s : Block) : Block := mixBy 0x02 0x03 0x01 0x01 s

/-- `InvMixColumns` (R108): coefficients 0E 0B 0D 09. -/
def invMixColumns (s : Block) : Block := mixBy 0x0E 0x0B 0x0D 0x09 s

/-- One full round of `Cipher` (R109): substitute, shift, mix, round key `r`. -/
def cipherRound (rks : Vector Byte 240) (r : Nat) (s : Block) : Block :=
  addRoundKey rks r (mixColumns (shiftRows (subBytes s)))

/-- The full rounds 1 to `n` of `Cipher`, in increasing order. -/
def cipherRounds (rks : Vector Byte 240) : Nat → Block → Block
  | 0, s => s
  | n + 1, s => cipherRound rks (n + 1) (cipherRounds rks n s)

/-- `Cipher(RKS, Nr, in)` (R109). -/
def cipher (rks : Vector Byte 240) (nr : Nat) (x : Block) : Block :=
  addRoundKey rks nr (shiftRows (subBytes (cipherRounds rks (nr - 1) (addRoundKey rks 0 x))))

/-- One full round of `InvCipher` (R109): shift back, substitute back, round key `r`, mix back. -/
def invCipherRound (rks : Vector Byte 240) (r : Nat) (s : Block) : Block :=
  invMixColumns (addRoundKey rks r (invSubBytes (invShiftRows s)))

/-- The full rounds `n` down to 1 of `InvCipher`. -/
def invCipherRounds (rks : Vector Byte 240) : Nat → Block → Block
  | 0, s => s
  | n + 1, s => invCipherRounds rks n (invCipherRound rks (n + 1) s)

/-- `InvCipher(RKS, Nr, in)` (R109), with the same schedule as `Cipher`. -/
def invCipher (rks : Vector Byte 240) (nr : Nat) (x : Block) : Block :=
  addRoundKey rks 0 (invSubBytes (invShiftRows (invCipherRounds rks (nr - 1) (addRoundKey rks nr x))))

/-- `ENCB`'s check and result (R110). -/
def encbBody (s : State) : Except Cause State :=
  match s.scheduleRounds with
  | none => .error .noKeySchedule
  | some nr => .ok { s with blk := cipher s.rks nr s.blk }

/-- `ENCB` (R110). -/
def execEncb (s : State) : Host.Outcome State Fault Refusal :=
  runCommand encbBody s

/-- `DECB`'s check and result (R111). -/
def decbBody (s : State) : Except Cause State :=
  match s.scheduleRounds with
  | none => .error .noKeySchedule
  | some nr => .ok { s with blk := invCipher s.rks nr s.blk }

/-- `DECB` (R111). -/
def execDecb (s : State) : Host.Outcome State Fault Refusal :=
  runCommand decbBody s

end Sys2Proof.Machine
end

