-- ==== Sys2Proof/Machine/Framing.lean ====
section
/-! DEFINITION. The framing bytes and the system command (`47_framing_system.md` R185 to R191): `SALTGEN`, `HDR`
and `CLR`. -/

namespace Sys2Proof.Machine

/-- The marker (R188): the ASCII characters `Salted__`. -/
def saltedMarker : List Byte := [0x53, 0x61, 0x6C, 0x74, 0x65, 0x64, 0x5F, 0x5F]

/-- `SALTGEN`'s results (R186): it raises nothing. -/
def saltgenBody (s : State) : Except Cause State :=
  .ok ({ s with mem := s.mem.write saltBase (s.randBytes 8), sLen := 8 }.drawn 8)

/-- `SALTGEN` (R186). -/
def execSaltgen (s : State) : Host.Outcome State Fault Refusal :=
  runCommand saltgenBody s

/-- `HDR`'s checks and results (R187). -/
def hdrBody (fr : Framing) (s : State) : Except Cause State :=
  match fr with
  | .salted =>
    if s.sLen = 8 then .ok { s with hdr := vecOf 16 (saltedMarker ++ s.mem.bytes saltBase 8) }
    else .error .saltNotEightBytes
  | .rawIv => if s.status.ivV then .ok { s with hdr := s.ivr } else .error .missingIv

/-- `HDR` (R187). -/
def execHdr (fr : Framing) (s : State) : Host.Outcome State Fault Refusal :=
  runCommand (hdrBody fr) s

/-- `CLR`'s results (R190): it raises nothing. -/
def clrBody (s : State) : Except Cause State :=
  .ok s.cleared

/-- `CLR` (R190). -/
def execClr (s : State) : Host.Outcome State Fault Refusal :=
  runCommand clrBody s

end Sys2Proof.Machine
end

