-- ==== Sys2Proof/Machine/Sha256.lean ====
section
/-! DEFINITION. SHA-256, HMAC-SHA256 and PBKDF2 (`46_sha256_hmac_pbkdf2.md` R170 to R178), the functions behind
`STRETCH pbkdf2`. Byte strings in, byte strings out; `+` on words is addition modulo 2^32 (R170). -/

namespace Sys2Proof.Machine

/-- `rotr(x, n)` (R170). -/
def rotr (x : Word) (n : Nat) : Word := (x >>> n) ||| (x <<< (32 - n))

/-- `Ch` (R170). -/
def shaCh (x y z : Word) : Word := (x &&& y) ^^^ (~~~x &&& z)

/-- `Maj` (R170). -/
def shaMaj (x y z : Word) : Word := (x &&& y) ^^^ (x &&& z) ^^^ (y &&& z)

/-- `BSIG0` (R170). -/
def bsig0 (x : Word) : Word := rotr x 2 ^^^ rotr x 13 ^^^ rotr x 22

/-- `BSIG1` (R170). -/
def bsig1 (x : Word) : Word := rotr x 6 ^^^ rotr x 11 ^^^ rotr x 25

/-- `SSIG0` (R170). -/
def ssig0 (x : Word) : Word := rotr x 7 ^^^ rotr x 18 ^^^ (x >>> 3)

/-- `SSIG1` (R170). -/
def ssig1 (x : Word) : Word := rotr x 17 ^^^ rotr x 19 ^^^ (x >>> 10)

/-- The eight words `H[0..8)` of the hash, or `a` to `h` of the compression (R173). -/
structure ShaState where
  a : Word
  b : Word
  c : Word
  d : Word
  e : Word
  f : Word
  g : Word
  h : Word
  deriving DecidableEq, Repr

/-- The initial hash value `H0` (R172). -/
def shaInit : ShaState :=
  { a := 0x6a09e667, b := 0xbb67ae85, c := 0x3c6ef372, d := 0xa54ff53a,
    e := 0x510e527f, f := 0x9b05688c, g := 0x1f83d9ab, h := 0x5be0cd19 }

/-- The round constants `K[0..64)` (R172). -/
def shaK : List Word :=
  [0x428a2f98, 0x71374491, 0xb5c0fbcf, 0xe9b5dba5, 0x3956c25b, 0x59f111f1, 0x923f82a4, 0xab1c5ed5] ++
  [0xd807aa98, 0x12835b01, 0x243185be, 0x550c7dc3, 0x72be5d74, 0x80deb1fe, 0x9bdc06a7, 0xc19bf174] ++
  [0xe49b69c1, 0xefbe4786, 0x0fc19dc6, 0x240ca1cc, 0x2de92c6f, 0x4a7484aa, 0x5cb0a9dc, 0x76f988da] ++
  [0x983e5152, 0xa831c66d, 0xb00327c8, 0xbf597fc7, 0xc6e00bf3, 0xd5a79147, 0x06ca6351, 0x14292967] ++
  [0x27b70a85, 0x2e1b2138, 0x4d2c6dfc, 0x53380d13, 0x650a7354, 0x766a0abb, 0x81c2c92e, 0x92722c85] ++
  [0xa2bfe8a1, 0xa81a664b, 0xc24b8b70, 0xc76c51a3, 0xd192e819, 0xd6990624, 0xf40e3585, 0x106aa070] ++
  [0x19a4c116, 0x1e376c08, 0x2748774c, 0x34b0bcb5, 0x391c0cb3, 0x4ed8aa4a, 0x5b9cca4f, 0x682e6ff3] ++
  [0x748f82ee, 0x78a5636f, 0x84c87814, 0x8cc70208, 0x90befffa, 0xa4506ceb, 0xbef9a3f7, 0xc67178f2]

/-- `P = M || 80 || 0^k || be64(8 L)` (R171), `k` the smallest with `(L + 1 + k + 8) mod 64 = 0`. -/
def shaPad (m : List Byte) : List Byte :=
  m ++ [0x80] ++ List.replicate ((64 - (m.length + 9) % 64) % 64) 0 ++ be64inv (8 * m.length)

/-- Parsing into big-endian words of 4 consecutive bytes (R171). -/
def shaWords : List Byte → List Word
  | b0 :: b1 :: b2 :: b3 :: rest => be32 b0 b1 b2 b3 :: shaWords rest
  | _ => []

/-- The message schedule `W` (R173): the block's sixteen words and `n` more, word `j = 16 + n` from words
`j-2`, `j-7`, `j-15` and `j-16`. -/
def shaSchedule (m : List Word) : Nat → List Word
  | 0 => m
  | n + 1 =>
    let w := shaSchedule m n
    w ++ [ssig1 (w.getD (14 + n) 0) + w.getD (9 + n) 0 + ssig0 (w.getD (1 + n) 0) + w.getD n 0]

/-- One round of the compression (R173), with `kw = K[j] + W[j]`. -/
def shaRound (s : ShaState) (kw : Word) : ShaState :=
  let t1 := s.h + bsig1 s.e + shaCh s.e s.f s.g + kw
  let t2 := bsig0 s.a + shaMaj s.a s.b s.c
  { a := t1 + t2, b := s.a, c := s.b, d := s.c, e := s.d + t1, f := s.e, g := s.f, h := s.g }

/-- One block (R173): 64 rounds from `H`, added word by word to `H`. -/
def shaCompress (hs : ShaState) (m : List Word) : ShaState :=
  let r := (List.zipWith (fun k w => k + w) shaK (shaSchedule m 48)).foldl shaRound hs
  { a := hs.a + r.a, b := hs.b + r.b, c := hs.c + r.c, d := hs.d + r.d,
    e := hs.e + r.e, f := hs.f + r.f, g := hs.g + r.g, h := hs.h + r.h }

/-- The blocks in order, sixteen words each (R171, R173). -/
def shaBlocks : Nat → List Word → ShaState → ShaState
  | 0, _, hs => hs
  | n + 1, ws, hs => shaBlocks n (ws.drop 16) (shaCompress hs (ws.take 16))

/-- `SHA256(M)` (R173), 32 bytes. -/
def sha256 (m : List Byte) : List Byte :=
  let p := shaPad m
  let r := shaBlocks (p.length / 64) (shaWords p) shaInit
  be32inv r.a ++ be32inv r.b ++ be32inv r.c ++ be32inv r.d ++
    be32inv r.e ++ be32inv r.f ++ be32inv r.g ++ be32inv r.h

/-- `K0` (R175): the key, hashed first where it is longer than 64 bytes, zero-filled to exactly 64. -/
def hmacKey (k : List Byte) : List Byte :=
  let k0 := if 64 < k.length then sha256 k else k
  k0 ++ List.replicate (64 - k0.length) 0

/-- `HMAC(K, M)` (R175), 32 bytes. -/
def hmacSha256 (k m : List Byte) : List Byte :=
  let k0 := hmacKey k
  let ipad := k0.map fun x => x ^^^ 0x36
  let opad := k0.map fun x => x ^^^ 0x5C
  sha256 (opad ++ sha256 (ipad ++ m))

/-- The loop of `F` (R178): `n` more times, `U <- HMAC(P, U)` and `T <- T ^ U`. -/
def pbkdf2Loop (p : List Byte) : Nat → List Byte → List Byte → List Byte
  | 0, _, t => t
  | n + 1, u, t => let u' := hmacSha256 p u; pbkdf2Loop p n u' (xorBytes t u')

/-- `F(P, S, c, i)` (R178), 32 bytes. -/
def pbkdf2F (p s : List Byte) (c i : Nat) : List Byte :=
  let u := hmacSha256 p (s ++ be32inv (BitVec.ofNat 32 i))
  pbkdf2Loop p (c - 1) u u

/-- `PBKDF2_HMAC_SHA256(P, S, c, dkLen)` (R178): the first `dkLen` bytes of `F` at 1, 2, .. `ceil(dkLen / 32)`. -/
def pbkdf2 (p s : List Byte) (c dkLen : Nat) : List Byte :=
  ((List.range ((dkLen + 31) / 32)).flatMap fun i => pbkdf2F p s c (i + 1)).take dkLen

end Sys2Proof.Machine
end

