-- ==== Sys2Proof/Machine/KeyDerivation.lean ====
section
/-! DEFINITION. The key derivation pipeline and the Argon2id bridge (`45_key_derivation.md` R150 to R166), with
the commands `DRAW`, `DIV` and `STRETCH`. -/

namespace Sys2Proof.Machine

/-- `InferBits(n)` (R151). -/
def inferBits (n : Nat) : KeySize :=
  if n ≤ 16 then .k128 else if n ≤ 24 then .k192 else .k256

/-- `DRAW`'s checks and results (R152). -/
def drawBody (ks : Option KeySize) (q : Bool) (s : State) : Except Cause State :=
  let n := s.kmLen.toNat
  if Config.kmCap < n then .error .lengthAboveCapacity
  else if n = 0 then .error .missingKeyMaterial
  else
    let k := ks.getD (inferBits n)
    let kb := keyBytes k
    let t := (s.putKSize k.code).putKey (vecOf 32 (s.keyMaterial.take (min 32 (min n kb))))
    .ok { t with status := t.status.advise q n kb }

/-- `DRAW` (R152). -/
def execDraw (ks : Option KeySize) (q : Bool) (s : State) : Host.Outcome State Fault Refusal :=
  runCommand (drawBody ks q) s

/-- `DIV`'s check and results (R157): 16 bytes of the random source, or the decoded digits, left-aligned,
zero-padded and truncated to 16 bytes, their count `L` against 16 for the advisories. -/
def divBody (q rnd : Bool) (s : State) : Except Cause State :=
  if rnd then .ok ((s.putIvr (vecOf 16 (s.randBytes 16))).drawn 16)
  else if Config.ivnCap < s.ivnLen.toNat then .error .lengthAboveCapacity
  else
    let b := nibDecode s.ivDigits
    let t := s.putIvr (vecOf 16 (b.take (min 16 b.length)))
    .ok { t with status := t.status.advise q b.length 16 }

/-- `DIV` (R157). -/
def execDiv (q rnd : Bool) (s : State) : Host.Outcome State Fault Refusal :=
  runCommand (divBody q rnd) s

/-- The iteration floor (R161): `max(ITER, 1000)`. -/
def iterations (iter : Word) : Nat := max iter.toNat 1000

/-- The 48 bytes of stretched material, `none` where the bridge answers Reject (R160, R162). -/
def stretchMaterial (kdf : Kdf) (s : State) : Option (Vector Byte 48) :=
  match kdf with
  | .pbkdf2 => some (vecOf 48 (pbkdf2 s.password s.salt (iterations s.iter) 48))
  | .argon2id => Config.argon2id s.password s.salt

/-- The key slice `T[0..32)` (R159). -/
def keySlice (t : Vector Byte 48) : Vector Byte 32 :=
  vecOf 32 t.toList

/-- The IV slice `T[bits/8 .. bits/8 + 16)` (R159). -/
def ivSlice (ks : KeySize) (t : Vector Byte 48) : Block :=
  vecOf 16 (t.toList.drop (keyBytes ks))

/-- `STRETCH`'s checks and results (R160); an unspecified size means 256. -/
def stretchBody (ks : Option KeySize) (kdf : Kdf) (s : State) : Except Cause State :=
  if Config.pwCap < s.pwLen.toNat ∨ Config.saltCap < s.sLen.toNat then .error .lengthAboveCapacity
  else if s.pwLen.toNat = 0 then .error .missingKeyMaterial
  else
    match stretchMaterial kdf s with
    | none => .error .stretchRejected
    | some t =>
      let k := ks.getD .k256
      .ok ({ s with str := t }.putKSize k.code |>.putKey (keySlice t) |>.putIvr (ivSlice k t))

/-- `STRETCH` (R160). -/
def execStretch (ks : Option KeySize) (kdf : Kdf) (s : State) : Host.Outcome State Fault Refusal :=
  runCommand (stretchBody ks kdf) s

end Sys2Proof.Machine
end

