-- ==== Sys2Proof/Machine/KeySchedule.lean ====
section
/-! DEFINITION. The key schedule expander (`41_key_schedule.md` R90 to R96) and its command, `KEXP`. -/

namespace Sys2Proof.Machine

/-- A 4-byte word of the schedule (R91). -/
abbrev KeyWord := Vector Byte 4

/-- Word `i` of a list of schedule words; four zero bytes past its end. -/
def keyWordAt (ws : List KeyWord) (i : Nat) : KeyWord :=
  ws.getD i (Vector.replicate 4 0)

/-- `RotWord` (R92): left by one byte. -/
def rotWord (t : KeyWord) : KeyWord := #v[t[1], t[2], t[3], t[0]]

/-- `SubWord` (R92): the S-box on each byte. -/
def subWord (t : KeyWord) : KeyWord := Vector.ofFn fun j => sbox t[j]

/-- `t[0] <- t[0] ^ RCON[j]` (R93): only byte 0 of the word. -/
def xorRcon (j : Nat) (t : KeyWord) : KeyWord := #v[t[0] ^^^ rcon j, t[1], t[2], t[3]]

/-- XOR of words, byte by byte (R91). -/
def xorWord (a b : KeyWord) : KeyWord := Vector.ofFn fun j => a[j] ^^^ b[j]

/-- The word `t` of R93's loop body at index `i`: of the previous word, by the word's place in its group. -/
def scheduleTemp (nk i : Nat) (prev : KeyWord) : KeyWord :=
  if i % nk = 0 then xorRcon (i / nk) (subWord (rotWord prev))
  else if nk = 8 ∧ i % 8 = 4 then subWord prev
  else prev

/-- The first `nk` words: the significant bytes of the key in order (R91). -/
def keyWordsOf (nk : Nat) (key : Vector Byte 32) : List KeyWord :=
  (List.range nk).map fun i => Vector.ofFn fun j => byteAt key (4 * i + j.val)

/-- The first `nk + n` words of the schedule, by R93's recurrence `w[i] <- w[i-Nk] ^ t`. -/
def scheduleWords (nk : Nat) (key : Vector Byte 32) : Nat → List KeyWord
  | 0 => keyWordsOf nk key
  | n + 1 =>
    let ws := scheduleWords nk key n
    let i := nk + n
    ws ++ [xorWord (keyWordAt ws (i - nk)) (scheduleTemp nk i (keyWordAt ws (i - 1)))]

/-- `expand(key, size)` (R90) as it stands in `RKS`: `RKS[4i + j] = w[i][j]`, the bytes from `16(Nr+1)` on zero
(R95). -/
def expandKey (ks : KeySize) (key : Vector Byte 32) : Vector Byte 240 :=
  let ws := scheduleWords (keyWords ks) key (4 * (rounds ks + 1) - keyWords ks)
  Vector.ofFn fun p => byteAt (keyWordAt ws (p.val / 4)) (p.val % 4)

/-- `KEXP`'s checks and results (R95). -/
def kexpBody (s : State) : Except Cause State :=
  match s.selectedSize with
  | none => .error .noCipherSelected
  | some ks =>
    if s.status.keyV then .ok (s.putSchedule (expandKey ks s.key)) else .error .missingKeyMaterial

/-- `KEXP` (R95). -/
def execKexp (s : State) : Host.Outcome State Fault Refusal :=
  runCommand kexpBody s

end Sys2Proof.Machine
end

