-- ==== Sys2Proof/Machine/Modes.lean ====
section
/-! DEFINITION. The mode-of-operation controller (`43_modes.md` R120 to R131) and its command `APPLY`. The
chaining register `CHN` (R123) is the argument `chn`: loaded with the IV, updated block by block, dead after. -/

namespace Sys2Proof.Machine

/-- `nb = ceil(n / 16)` (R121). -/
def blockCount (n : Nat) : Nat := (n + 15) / 16

/-- The first `nb` blocks of a byte string in order, each of 16 bytes but possibly the last (R121). -/
def blocksOf : Nat → List Byte → List (List Byte)
  | 0, _ => []
  | nb + 1, x => x.take 16 :: blocksOf nb (x.drop 16)

/-- ECB (R122): each block by itself. -/
def ecbRun (f : Block → Block) (bs : List (List Byte)) : List Byte :=
  bs.flatMap fun b => (f (vecOf 16 b)).toList

/-- CBC, Encrypt (R124): `out_i <- Cipher(in_i ^ CHN)`, `CHN <- out_i`. -/
def cbcEncrypt (f : Block → Block) : Block → List (List Byte) → List Byte
  | _, [] => []
  | chn, b :: bs =>
    let out := f (xorBlock (vecOf 16 b) chn)
    out.toList ++ cbcEncrypt f out bs

/-- CBC, Decrypt (R125): `out_i <- InvCipher(in_i) ^ CHN`, `CHN <- in_i`, the raw ciphertext block. -/
def cbcDecrypt (f : Block → Block) : Block → List (List Byte) → List Byte
  | _, [] => []
  | chn, b :: bs => (xorBlock (f (vecOf 16 b)) chn).toList ++ cbcDecrypt f (vecOf 16 b) bs

/-- The counter after a block (R126): `be128inv((be128(CHN) + 1) mod 2^128)`. -/
def nextCounter (chn : Block) : Block :=
  be128inv ((be128 chn + 1) % 2 ^ 128)

/-- CTR (R126): each block XORed with as many bytes of the encrypted counter as it has. -/
def ctrRun (f : Block → Block) : Block → List (List Byte) → List Byte
  | _, [] => []
  | chn, b :: bs => xorBytes b (f chn).toList ++ ctrRun f (nextCounter chn) bs

/-- `Mode(md, dir, RKS, Nr, iv, in)` (R120). ECB does not use `iv` (R122), CTR does not use `dir` and always
encrypts its counter (R126). -/
def modeRun (md : Mode) (dir : Dir) (rks : Vector Byte 240) (nr : Nat) (iv : Block)
    (x : List Byte) : List Byte :=
  let bs := blocksOf (blockCount x.length) x
  match md, dir with
  | .ecb, .encrypt => ecbRun (cipher rks nr) bs
  | .ecb, .decrypt => ecbRun (invCipher rks nr) bs
  | .cbc, .encrypt => cbcEncrypt (cipher rks nr) iv bs
  | .cbc, .decrypt => cbcDecrypt (invCipher rks nr) iv bs
  | .ctr, _ => ctrRun (cipher rks nr) iv bs

/-- The checks `APPLY` and `XFORM` share, in their order (R128, R145): a mode is selected (0x04), there is a
schedule (0x06), CBC and CTR have an IV (0x07), the payload's length (0x08, 0x09). What passes them has a mode
and a round count. -/
def modeChecks (md : Option Mode) (s : State) : Except Cause (Mode × Nat) :=
  match md with
  | none => .error .noModeSelected
  | some m =>
    match s.scheduleRounds with
    | none => .error .noKeySchedule
    | some nr =>
      if m ≠ .ecb ∧ s.status.ivV = false then .error .missingIv
      else
        match s.payloadCause with
        | some c => .error c
        | none => .ok (m, nr)

/-- `APPLY`'s further check and result (R128): ECB and CBC need whole blocks. -/
def applyBody (md : Option Mode) (dir : Dir) (s : State) : Except Cause State :=
  match modeChecks md s with
  | .error c => .error c
  | .ok (m, nr) =>
    match (if m = .ctr then none else s.wholeBlocksCause) with
    | some c => .error c
    | none => .ok (s.putOutput (modeRun m dir s.rks nr s.ivr s.payload))

/-- `APPLY` (R128). -/
def execApply (md : Option Mode) (dir : Dir) (s : State) : Host.Outcome State Fault Refusal :=
  runCommand (applyBody md dir) s

end Sys2Proof.Machine
end

