-- ==== Sys2Proof/Machine/Padding.lean ====
section
/-! DEFINITION. The PKCS#7 padder and unpadder and the combined transform (`44_padding_transform.md` R135 to
R146), with the commands `PADA`, `PADR` and `XFORM`. -/

namespace Sys2Proof.Machine

/-- `PadAdd(x, np)` (R136): `p = 16 - (len mod 16)` bytes of value `p`; under `np` a full pad block is
suppressed. -/
def padAdd (np : Bool) (x : List Byte) : List Byte :=
  let p := 16 - x.length % 16
  if np = true ∧ p = 16 then x else x ++ List.replicate p (BitVec.ofNat 8 p)

/-- `PadRemove(y, np)` (R138): under `np` nothing is read or removed; else the last byte `p` says how many bytes
go, 1 to 16, and the others of them are not looked at. -/
def padRemove (np : Bool) (y : List Byte) : Except Cause (List Byte) :=
  if np then .ok y
  else
    let p := (y.getLastD 0).toNat
    if 1 ≤ p ∧ p ≤ 16 then .ok (y.take (y.length - p)) else .error .padCountOutOfRange

/-- `Transform(md, dir, RKS, Nr, iv, x, np)` (R143): CTR never pads; encryption pads before the mode,
decryption unpads after it. -/
def transform (md : Mode) (dir : Dir) (np : Bool) (rks : Vector Byte 240) (nr : Nat) (iv : Block)
    (x : List Byte) : Except Cause (List Byte) :=
  if md = .ctr then .ok (modeRun .ctr dir rks nr iv x)
  else
    match dir with
    | .encrypt => .ok (modeRun md .encrypt rks nr iv (padAdd np x))
    | .decrypt => padRemove np (modeRun md .decrypt rks nr iv x)

/-- `PADA`'s checks and result (R140). -/
def padaBody (np : Bool) (s : State) : Except Cause State :=
  match s.payloadCause with
  | some c => .error c
  | none => .ok (s.putOutput (padAdd np s.payload))

/-- `PADA` (R140). -/
def execPada (np : Bool) (s : State) : Host.Outcome State Fault Refusal :=
  runCommand (padaBody np) s

/-- `PADR`'s checks and result (R141). -/
def padrBody (np : Bool) (s : State) : Except Cause State :=
  match s.payloadCause with
  | some c => .error c
  | none =>
    match s.wholeBlocksCause with
    | some c => .error c
    | none =>
      match padRemove np s.payload with
      | .error c => .error c
      | .ok out => .ok (s.putOutput out)

/-- `PADR` (R141). -/
def execPadr (np : Bool) (s : State) : Host.Outcome State Fault Refusal :=
  runCommand (padrBody np) s

/-- `XFORM`'s further checks and result (R145): ECB and CBC decryption need whole blocks, and the pad count is
checked after all blocks are decrypted. -/
def xformBody (md : Option Mode) (dir : Dir) (np : Bool) (s : State) : Except Cause State :=
  match modeChecks md s with
  | .error c => .error c
  | .ok (m, nr) =>
    match (if m ≠ .ctr ∧ dir = .decrypt then s.wholeBlocksCause else none) with
    | some c => .error c
    | none =>
      match transform m dir np s.rks nr s.ivr s.payload with
      | .error c => .error c
      | .ok out => .ok (s.putOutput out)

/-- `XFORM` (R145). -/
def execXform (md : Option Mode) (dir : Dir) (np : Bool) (s : State) :
    Host.Outcome State Fault Refusal :=
  runCommand (xformBody md dir np) s

end Sys2Proof.Machine
end

