-- ==== Sys2Proof/Machine/Dispatch.lean ====
section
/-! DEFINITION. One arm per command (`30_encoding.md` R62): which meaning it has. -/

namespace Sys2Proof.Machine

def exec (i : Instr) (s : State) : Host.Outcome State Fault Refusal :=
  match i with
  | .kexp => Sys2Proof.Machine.execKexp s
  | .encb => Sys2Proof.Machine.execEncb s
  | .decb => Sys2Proof.Machine.execDecb s
  | .apply md dir => Sys2Proof.Machine.execApply md dir s
  | .pada np => Sys2Proof.Machine.execPada np s
  | .padr np => Sys2Proof.Machine.execPadr np s
  | .xform md dir np => Sys2Proof.Machine.execXform md dir np s
  | .draw ks q => Sys2Proof.Machine.execDraw ks q s
  | .div q rnd => Sys2Proof.Machine.execDiv q rnd s
  | .stretch ks kdf => Sys2Proof.Machine.execStretch ks kdf s
  | .saltgen => Sys2Proof.Machine.execSaltgen s
  | .hdr fr => Sys2Proof.Machine.execHdr fr s
  | .clr => Sys2Proof.Machine.execClr s

end Sys2Proof.Machine
end

