-- ==== Sys2Proof/Machine/HostAccess.lean ====
section
/-! DEFINITION. The host's side of the core (`20_memory.md` R40 to R52): the address map, what each register and
window reads as, what a write to it does, and a write to `CMD`, which runs a command. -/

namespace Sys2Proof.Machine

/-- The word registers of R20. -/
inductive WordReg where
  | cmd | status | kSize | rkSize | iter | iLen | oLen | pwLen | sLen | kmLen | ivnLen
  deriving DecidableEq, Repr

/-- The offset of each word register (R20, R46). -/
def WordReg.offset : WordReg → Nat
  | .cmd => 0x000
  | .status => 0x004
  | .kSize => 0x008
  | .rkSize => 0x00C
  | .iter => 0x010
  | .iLen => 0x014
  | .oLen => 0x018
  | .pwLen => 0x01C
  | .sLen => 0x020
  | .kmLen => 0x024
  | .ivnLen => 0x028

/-- All word registers, in the order of R20. -/
def WordReg.all : List WordReg :=
  [.cmd, .status, .kSize, .rkSize, .iter, .iLen, .oLen, .pwLen, .sLen, .kmLen, .ivnLen]

/-- The word register at an offset, if there is one. -/
def wordRegAt (off : Nat) : Option WordReg :=
  WordReg.all.find? fun r => r.offset == off

/-- The byte-array windows of R46. -/
inductive Window where
  | key | ivr | blk | hdr | str | rks | salt | ivnib | kmat | pwd | ibuf | obuf
  deriving DecidableEq, Repr

/-- The first offset of each window (R46). -/
def Window.base : Window → Nat
  | .key => 0x040
  | .ivr => 0x060
  | .blk => 0x070
  | .hdr => 0x080
  | .str => 0x0C0
  | .rks => 0x100
  | .salt => saltBase
  | .ivnib => ivnibBase
  | .kmat => kmatBase
  | .pwd => pwdBase
  | .ibuf => ibufBase
  | .obuf => obufBase

/-- The number of bytes of each window (R46), `cap` the value of `BUFCAP`. -/
def Window.size (cap : Nat) : Window → Nat
  | .key => 32
  | .ivr => 16
  | .blk => 16
  | .hdr => 16
  | .str => 48
  | .rks => 240
  | .salt => Config.saltCap
  | .ivnib => Config.ivnCap
  | .kmat => Config.kmCap
  | .pwd => Config.pwCap
  | .ibuf => cap
  | .obuf => cap + 16

/-- All windows, in the order of R46. -/
def Window.all : List Window :=
  [.key, .ivr, .blk, .hdr, .str, .rks, .salt, .ivnib, .kmat, .pwd, .ibuf, .obuf]

/-- The window an offset lies in, if any. -/
def windowAt (cap off : Nat) : Option Window :=
  Window.all.find? fun w => decide (w.base ≤ off) && decide (off < w.base + w.size cap)

/-- What an access of one width at one offset reaches (R42, R44, R46). -/
inductive Target where
  /-- no offset of the register space (R40) -/
  | outside
  /-- a form R42 refuses -/
  | illFormed
  /-- a word register -/
  | word (r : WordReg)
  /-- byte `i` of a window -/
  | byte (w : Window) (i : Nat)
  /-- a reserved offset (R44) -/
  | reserved
  deriving DecidableEq, Repr

/-- What a 4-byte access reaches (R42): a word register, or a reserved offset where no byte of it lies in a
window; aligned in any case. -/
def wordTarget (cap off : Nat) : Target :=
  if 0x30000 ≤ off then .outside
  else if off % 4 ≠ 0 then .illFormed
  else
    match wordRegAt off with
    | some r => .word r
    | none =>
      if (List.range 4).any fun i => (windowAt cap (off + i)).isSome then .illFormed else .reserved

/-- What a 1-byte access reaches (R42): a byte of a window, or a reserved offset; never a word register, and
below 0x40 only a multiple of 4 (log entry 8, DEDUCED). -/
def byteTarget (cap off : Nat) : Target :=
  if 0x30000 ≤ off then .outside
  else
    match windowAt cap off with
    | some w => .byte w (off - w.base)
    | none =>
      if off < 0x40 ∧ (off % 4 ≠ 0 ∨ (wordRegAt off).isSome = true) then .illFormed else .reserved

/-- What a word register reads as (R20, R21, R44): `CMD` 0, `KSIZE` and `RKSIZE` their two bits. -/
def State.readReg (s : State) : WordReg → Word
  | .cmd => 0
  | .status => s.status.word
  | .kSize => s.kSize.setWidth 32
  | .rkSize => s.rkSize.setWidth 32
  | .iter => s.iter
  | .iLen => s.iLen
  | .oLen => s.oLen
  | .pwLen => s.pwLen
  | .sLen => s.sLen
  | .kmLen => s.kmLen
  | .ivnLen => s.ivnLen

/-- What byte `i` of a window reads as. -/
def State.readWindow (s : State) (w : Window) (i : Nat) : Byte :=
  match w with
  | .key => byteAt s.key i
  | .ivr => byteAt s.ivr i
  | .blk => byteAt s.blk i
  | .hdr => byteAt s.hdr i
  | .str => byteAt s.str i
  | .rks => byteAt s.rks i
  | .salt => s.mem.read (saltBase + i)
  | .ivnib => s.mem.read (ivnibBase + i)
  | .kmat => s.mem.read (kmatBase + i)
  | .pwd => s.mem.read (pwdBase + i)
  | .ibuf => s.mem.read (ibufBase + i)
  | .obuf => s.mem.read (obufBase + i)

/-- One byte written to a buffer (R45): it is stored, and nothing else happens. -/
def State.putMem (a : Nat) (b : Byte) (s : State) : State :=
  { s with mem := s.mem.write a [b] }

/-- A host write of byte `i` of a window (R13, R14, R19, R44, R45): read-only windows ignore it, `KEY` and `IVR`
have side effects, `IVNIB` stores the low nibble. -/
def State.writeWindow (w : Window) (i : Nat) (b : Byte) (s : State) : State :=
  match w with
  | .key => s.putKey (setByte s.key i b)
  | .ivr => s.putIvr (setByte s.ivr i b)
  | .blk => { s with blk := setByte s.blk i b }
  | .hdr => s
  | .str => s
  | .rks => s
  | .salt => s.putMem (saltBase + i) b
  | .ivnib => s.putMem (ivnibBase + i) (b &&& 0x0F)
  | .kmat => s.putMem (kmatBase + i) b
  | .pwd => s.putMem (pwdBase + i) b
  | .ibuf => s.putMem (ibufBase + i) b
  | .obuf => s

/-- The cause of a word that does not decode (R64). -/
def decodeCause : DecodeError → Cause
  | .reservedOpcode => .reservedOpcode
  | .reservedEncoding => .reservedEncoding

/-- A write to `CMD` (R50, R63, R64, R226): the word is sampled and decoded; it runs as a command, or raises
ConfigurationError 0x01 or 0x02; and the host must wait. -/
def runWord (w : Word) (s : State) : Host.Outcome State Fault Refusal :=
  match decode w with
  | .ok i => exec i s.cmdWritten
  | .error e => .next (raise (decodeCause e) s.cmdWritten.started)

/-- A host write of a word register (R20, R44, R45, R50): `CMD` runs a command, read-only registers ignore the
write, `KSIZE` stores bits [1:0] and invalidates the schedule, the others store all 32 bits. -/
def writeReg (r : WordReg) (v : Word) (s : State) : Host.Outcome State Fault Refusal :=
  match r with
  | .cmd => runWord v s
  | .status => .next s
  | .kSize => .next (s.putKSize (v.setWidth 2))
  | .rkSize => .next s
  | .iter => .next { s with iter := v }
  | .iLen => .next { s with iLen := v }
  | .oLen => .next s
  | .pwLen => .next { s with pwLen := v }
  | .sLen => .next { s with sLen := v }
  | .kmLen => .next { s with kmLen := v }
  | .ivnLen => .next { s with ivnLen := v }

/-- What a read of a target answers (R41, R44): the register, the byte, or `zero` at a reserved offset. No read
has a side effect on the core (R45). -/
def State.readTarget (t : Target) (zero : ReadData) (s : State) : Host.Outcome State Fault Refusal :=
  match t with
  | .outside => .fault .outsideRegisterSpace
  | .illFormed => .refused .illFormedAccess
  | .word r => .next { s with readData := some (.word (s.readReg r)) }
  | .byte w i => .next { s with readData := some (.byte (s.readWindow w i)) }
  | .reserved => .next { s with readData := some zero }

/-- What a 4-byte write does to a target. -/
def writeWordTarget (t : Target) (v : Word) (s : State) : Host.Outcome State Fault Refusal :=
  match t with
  | .outside => .fault .outsideRegisterSpace
  | .illFormed => .refused .illFormedAccess
  | .word r => writeReg r v s
  | .byte _ _ => .refused .illFormedAccess
  | .reserved => .next s

/-- What a 1-byte write does to a target. -/
def writeByteTarget (t : Target) (b : Byte) (s : State) : Host.Outcome State Fault Refusal :=
  match t with
  | .outside => .fault .outsideRegisterSpace
  | .illFormed => .refused .illFormedAccess
  | .word _ => .refused .illFormedAccess
  | .byte w i => .next (s.writeWindow w i b)
  | .reserved => .next s

/-- Is the event allowed while `BUSY = 1`, and before the host has seen it 0 (R52, R220, R226)? A read of `STATUS`,
and the reset. -/
def allowedWhileBusy : HostEvent → Bool
  | .readWord off => off == 0x004
  | .readByte _ => false
  | .writeWord _ _ => false
  | .writeByte _ _ => false
  | .reset => true

/-- What a 4-byte read does beside answering: at `STATUS` it may close the window of R226, elsewhere nothing. No
register of the core changes (R45). -/
def State.observed (off : Nat) (s : State) : State :=
  if off = 0x004 then s.statusRead else s

/-- An event on a core that is ready, or that R52 and R226 allow. Reset (R220) leaves the state of R31, with "no
command in progress". -/
def performEvent (e : HostEvent) (s : State) : Host.Outcome State Fault Refusal :=
  match e with
  | .readWord off => (s.observed off).readTarget (wordTarget s.bufCap off) (.word 0)
  | .readByte off => s.readTarget (byteTarget s.bufCap off) (.byte 0)
  | .writeWord off v => writeWordTarget (wordTarget s.bufCap off) v s
  | .writeByte off b => writeByteTarget (byteTarget s.bufCap off) b s
  | .reset => .next { s.cleared with mustPoll := false }

/-- One event of the host's sequence (R50, R51, R52, R226): while `BUSY = 1`, and from a write of `CMD` until a read of
`STATUS` has returned `BUSY = 0`, only those R52 and R226 allow. -/
def hostEvent (e : HostEvent) (s : State) : Host.Outcome State Fault Refusal :=
  if allowedWhileBusy e then performEvent e s
  else if s.status.busy then .refused .accessWhileBusy
  else if s.mustPoll then .refused .accessBeforePoll
  else performEvent e s

end Sys2Proof.Machine
end

