-- ==== Sys2Proof/Machine/Step.lean ====
section
/-! DEFINITION. One step of the machine: the core has no program counter and fetches nothing (`10_state.md` R12);
what it does next is the first event of the host's program order (`20_memory.md` R51). -/

namespace Sys2Proof.Machine

/-- One step (R51): the first pending host event is performed, one at a time, in order. With none the core "is
idle and holds all state" (R215). -/
def step (s : State) : Host.Outcome State Fault Refusal :=
  match s.pending with
  | [] => .next s
  | e :: rest => hostEvent e { s with pending := rest }

/-- `s` with the host about to write this command word to `CMD`: the next step runs exactly it. The low `nbits`
bits are `w`'s, all higher bits of the word 0. The host has waited for `BUSY = 0` before it writes (R226). -/
def State.withFetchWord (s : State) (nbits w : Nat) : State :=
  { s with
      status := { s.status with busy := false }
      mustPoll := false
      pending := .writeWord 0x000 (BitVec.ofNat 32 (w % 2 ^ nbits)) :: s.pending }

end Sys2Proof.Machine
end

