-- ==== Sys2Proof/Safety.lean ====
section
/-! DEFINITION. What every run of the core keeps: the invariant of the machine, in five parts, each a decidable
predicate. It rules out the states no run reaches; that it holds at reset and that every step keeps it are
statements of their own. -/

namespace Sys2Proof.Machine

/-- The parameter `BUFCAP` has one of the values R6 allows. -/
abbrev CapInv (s : State) : Prop := Config.legalBufCap s.bufCap

/-- Is the offset a byte of an operand buffer (R19, R46)? `SALT`, `IVNIB` and `KMAT` lie at 0x200 to 0x2BF. -/
def inOperandBuffer (cap a : Nat) : Bool :=
  (decide (0x200 ≤ a) && decide (a < 0x2C0)) || (decide (0x300 ≤ a) && decide (a < 0x400)) ||
    (decide (0x10000 ≤ a) && decide (a < 0x10000 + cap)) ||
    (decide (0x20000 ≤ a) && decide (a < 0x20000 + cap + 16))

/-- Memory is in its canonical form, holds operand buffers and nothing else, and the bytes of `IVNIB` (0x240 to
0x27F) are digit values: bits [7:4] "read back as 0" (R19). -/
abbrev MemInv (s : State) : Prop :=
  s.mem.wf ∧ ∀ c ∈ s.mem, inOperandBuffer s.bufCap c.1 = true ∧
    (0x240 ≤ c.1 ∧ c.1 < 0x280 → c.2.toNat < 16)

/-- `STATUS` between commands (R21, R25, R50, R201): not busy; `DONE` and `ERR` not both; `ERRKIND` and `CAUSE` 0
without an error, a row of R201 with one; the advisories never both, and only after success. -/
abbrev StatusInv (st : Status) : Prop :=
  st.busy = false ∧ ¬(st.done = true ∧ st.err = true) ∧
  (st.err = false → st.errKind = 0 ∧ st.cause = 0) ∧
  (st.err = true → ∃ c ∈ Cause.all, st.errKind = c.kind.number ∧ st.cause = c.number) ∧
  ¬(st.advS = true ∧ st.advL = true) ∧
  (st.advS = true ∨ st.advL = true → st.done = true)

/-- The schedule can be used only with the key it was expanded from (R16, R26, R96): `RKSIZE = 3` where `RKV = 0`,
and where `RKV = 1` the key is there, `RKSIZE` is `KSIZE` and `RKS` is the schedule of `KEY`. -/
abbrev ScheduleInv (s : State) : Prop :=
  match keySizeOfCode s.rkSize with
  | none => s.status.rkV = false
  | some ks => s.status.rkV = true ∧ s.status.keyV = true ∧ s.kSize = s.rkSize ∧
      s.rks = expandKey ks s.key

/-- `OLEN` counts bytes of `OBUF` (R20). -/
abbrev OutputInv (s : State) : Prop := s.oLen.toNat ≤ s.bufCap + 16

/-- The invariant of the core. -/
abbrev State.Inv (s : State) : Prop :=
  CapInv s ∧ MemInv s ∧ StatusInv s.status ∧ ScheduleInv s ∧ OutputInv s

/-- A state where a step stops: with a fault, or with a refusal. -/
def State.stuck (s : State) : Bool :=
  match step s with
  | .next _ => false
  | .fault _ => true
  | .refused _ => true

/-! ### The words statements are made in -/

/-- Any access R42 allows may be made (R52, R226): not busy, and the host has seen it. -/
abbrev State.ready (s : State) : Prop :=
  s.status.busy = false ∧ s.mustPoll = false

/-- `STATUS` after a command that completed (R50): `DONE` alone of the outcome, no advisory, the validity flags
as they were. -/
abbrev doneStatus (st : Status) : Status :=
  { st with busy := false, done := true, err := false, errKind := 0, cause := 0,
            advS := false, advL := false }

/-- The state after a command that raised (R203): `STATUS` shows the kind and the cause, nothing else changes. -/
abbrev failed (kind : BitVec 3) (cause : BitVec 8) (s : State) : State :=
  { s with status := { s.status with busy := false, done := false, err := true, errKind := kind,
                                     cause := cause, advS := false, advL := false } }

/-- There is a schedule for key size `ks` (R26): `RKV = 1` and `RKSIZE` names `ks`. -/
abbrev State.hasSchedule (s : State) (ks : KeySize) : Prop :=
  s.status.rkV = true ∧ keySizeOfCode s.rkSize = some ks

/-- The length registers let a buffer command run (R128, R140): `1 <= ILEN <= BUFCAP`. -/
abbrev State.hasPayload (s : State) : Prop :=
  s.iLen.toNat ≠ 0 ∧ s.iLen.toNat ≤ s.bufCap

/-- Mode `m` has the IV it needs (R24): ECB none, CBC and CTR a written one. -/
abbrev State.hasIv (s : State) (m : Mode) : Prop :=
  m = .ecb ∨ s.status.ivV = true

/-- Block `i` of a byte string of whole blocks (R121). -/
abbrev blockAt (x : List Byte) (i : Nat) : Block :=
  vecOf 16 ((x.drop (16 * i)).take 16)

/-- Byte `j` of word `i` of the schedule in `RKS` (R91): `RKS[4i + j]`. -/
abbrev scheduleByte (rks : Vector Byte 240) (i j : Nat) : Byte :=
  byteAt rks (4 * i + j)

/-- Digit `k` of the IV source, 0 past the last (R156). -/
abbrev ivDigit (s : State) (k : Nat) : Nibble :=
  if k < s.ivnLen.toNat then (s.mem.read (0x240 + k)).setWidth 4 else 0

end Sys2Proof.Machine
end

