-- ==== Sys2Proof/Certificates/Slice0/Obligations.lean ====
section
/-! DEFINITION. The statements for the provers, each from the numbered rules of spec/. `failed kind cause s` is
`s` with that error in `STATUS` and nothing else changed, `doneStatus` is `STATUS` after success (Safety.lean). -/

open Sys2Proof Sys2Proof.Machine

/-! ### The command word -/

/-- R60, R62, R63, R68: a word decodes to a command exactly if it is that command's word. -/
def Obligations.DecodesExactlyItsWord : Prop :=
  ∀ (w : Word) (i : Instr), decode w = .ok i ↔ w = encode i

/-- R63, R64: the reserved opcodes are 0x0, 0xE and 0xF; a word with a defined opcode that is no command's word
is a reserved encoding, and so is every word with a defined opcode and a 1 in bits 31:14. -/
def Obligations.IllegalWordsByName : Prop :=
  ∀ w : Word,
    (decode w = .error .reservedOpcode ↔
      w.extractLsb' 0 4 = 0x0 ∨ w.extractLsb' 0 4 = 0xE ∨ w.extractLsb' 0 4 = 0xF) ∧
    (decode w = .error .reservedEncoding ↔
      ¬(w.extractLsb' 0 4 = 0x0 ∨ w.extractLsb' 0 4 = 0xE ∨ w.extractLsb' 0 4 = 0xF) ∧
        ∀ i, encode i ≠ w) ∧
    (w.extractLsb' 14 18 ≠ 0 →
      decode w = .error .reservedOpcode ∨ decode w = .error .reservedEncoding)

/-- R68's example words decode to the commands the rule gives for them. -/
def Obligations.ExampleWordsDecode : Prop :=
  decode 0x00000001 = .ok .kexp ∧
  decode 0x00000044 = .ok (.apply (some .cbc) .encrypt) ∧
  decode 0x00000347 = .ok (.xform (some .cbc) .decrypt true) ∧
  decode 0x00000087 = .ok (.xform (some .ctr) .encrypt false) ∧
  decode 0x00000038 = .ok (.draw none false) ∧
  decode 0x00000818 = .ok (.draw (some .k192) true) ∧
  decode 0x00001009 = .ok (.div false true) ∧
  decode 0x0000002A = .ok (.stretch (some .k256) .pbkdf2) ∧
  decode 0x0000043A = .ok (.stretch none .argon2id) ∧
  decode 0x0000200C = .ok (.hdr .rawIv)

/-! ### A step -/

/-- R50, R51, R226: when the host's next event writes a command's word to `CMD`, the step is that command's `exec` on
the state with the event taken off and the host's wait begun; with no event the core idles (R215). -/
def Obligations.StepRunsDecodedCommand : Prop :=
  ∀ s : State,
    (∀ (w : Word) (i : Instr) (rest : List HostEvent),
      s.pending = .writeWord 0x000 w :: rest → s.ready → decode w = .ok i →
        step s = exec i { s with pending := rest, mustPoll := true }) ∧
    (s.pending = [] → step s = .next s)

/-- R64: a write to `CMD` of a word with a reserved opcode raises ConfigurationError 0x01, of a reserved encoding
ConfigurationError 0x02, and no state but `STATUS` changes; the host must wait, as after every write of `CMD` (R226). -/
def Obligations.IllegalWordRaises : Prop :=
  ∀ (s : State) (w : Word) (rest : List HostEvent),
    s.pending = .writeWord 0x000 w :: rest → s.ready →
      (w.extractLsb' 0 4 = 0x0 ∨ w.extractLsb' 0 4 = 0xE ∨ w.extractLsb' 0 4 = 0xF →
        step s = .next (failed 1 0x01 { s with pending := rest, mustPoll := true })) ∧
      (¬(w.extractLsb' 0 4 = 0x0 ∨ w.extractLsb' 0 4 = 0xE ∨ w.extractLsb' 0 4 = 0xF) →
        (∀ i, encode i ≠ w) →
          step s = .next (failed 1 0x02 { s with pending := rest, mustPoll := true }))

/-- R31: after reset and after `CLR` from any state every byte of every window is 0x00, `KSIZE = RKSIZE = 3` and every
length and `ITER` is 0; `STATUS` is 0x00000000 after reset and 0x00000002 after `CLR`. -/
def Obligations.ResetAndClearValues : Prop :=
  State.reset.status.word = 0x00000000 ∧
  (∀ s : State, ∃ t, exec .clr s = .next t ∧ t.status.word = 0x00000002) ∧
  ∀ t : State, (t = State.reset ∨ ∃ s, exec .clr s = .next t) →
    (∀ w i, t.readWindow w i = 0) ∧ t.kSize = 3 ∧ t.rkSize = 3 ∧ t.iter = 0 ∧ t.iLen = 0 ∧
    t.oLen = 0 ∧ t.pwLen = 0 ∧ t.sLen = 0 ∧ t.kmLen = 0 ∧ t.ivnLen = 0

/-- R220: an external reset leaves the reset state, whatever the core was doing, `BUSY = 1` included. The model's own
fields (log entries 2, 3, 4) stay, but nothing is left to wait for (log entry 18). -/
def Obligations.ResetEventRestoresReset : Prop :=
  ∀ (s : State) (rest : List HostEvent), s.pending = .reset :: rest →
    step s = .next { State.reset with
      bufCap := s.bufCap, randCount := s.randCount, pending := rest, readData := s.readData }

/-- R222: what each command does on the reset state, as `STATUS` shows it. -/
def Obligations.CommandsOnResetState : Prop :=
  (∃ t, exec .kexp State.reset = .next t ∧ t.status.word = 0x00000314) ∧
  (∃ t, exec .encb State.reset = .next t ∧ t.status.word = 0x00000614) ∧
  (∃ t, exec .decb State.reset = .next t ∧ t.status.word = 0x00000614) ∧
  (∀ m dir, ∃ t, exec (.apply (some m) dir) State.reset = .next t ∧ t.status.word = 0x00000614) ∧
  (∀ m dir np, ∃ t, exec (.xform (some m) dir np) State.reset = .next t ∧
    t.status.word = 0x00000614) ∧
  (∀ np, ∃ t, exec (.pada np) State.reset = .next t ∧ t.status.word = 0x00000914) ∧
  (∀ np, ∃ t, exec (.padr np) State.reset = .next t ∧ t.status.word = 0x00000914) ∧
  (∀ ks q, ∃ t, exec (.draw ks q) State.reset = .next t ∧ t.status.word = 0x00000514) ∧
  (∀ ks kdf, ∃ t, exec (.stretch ks kdf) State.reset = .next t ∧ t.status.word = 0x00000514) ∧
  (∃ t, exec (.div false false) State.reset = .next t ∧ t.status.word = 0x01020002 ∧
    ∀ j, byteAt t.ivr j = 0) ∧
  (∃ t, exec (.hdr .salted) State.reset = .next t ∧ t.status.word = 0x00000A14) ∧
  (∃ t, exec (.hdr .rawIv) State.reset = .next t ∧ t.status.word = 0x00000714) ∧
  (∃ t, exec .saltgen State.reset = .next t ∧ t.status.word = 0x00000002) ∧
  (∃ t, exec .clr State.reset = .next t ∧ t.status.word = 0x00000002)

/-! ### Errors -/

/-- R21, R50, R222: every command is defined on every state, and when it ends `BUSY` is 0 and exactly one of
`DONE` and `ERR` is 1; `ERRKIND` and `CAUSE` are 0 without an error. -/
def Obligations.EveryCommandCompletesOrRaises : Prop :=
  ∀ (i : Instr) (s : State), ∃ t, exec i s = .next t ∧ t.status.busy = false ∧
    t.status.done = !t.status.err ∧
    (t.status.err = false → t.status.errKind = 0 ∧ t.status.cause = 0)

/-- R203: a command that raises changes `STATUS` and nothing else, and in `STATUS` only the outcome: the validity
flags stay, the advisories are clear. -/
def Obligations.ErrorChangesOnlyStatus : Prop :=
  ∀ (i : Instr) (s t : State), exec i s = .next t → t.status.err = true →
    t = { s with status := { s.status with
            busy := false, done := false, err := true, errKind := t.status.errKind,
            cause := t.status.cause, advS := false, advL := false } } ∧
    ∃ c ∈ Cause.all, t.status.errKind = c.kind.number ∧ t.status.cause = c.number

/-- R201: the low 16 bits of `STATUS` for each cause, as the table gives them. -/
def Obligations.CauseTable : Prop :=
  ∀ st : Status,
    (st.raised .reservedOpcode).word.setWidth 16 = 0x0114 ∧
    (st.raised .reservedEncoding).word.setWidth 16 = 0x0214 ∧
    (st.raised .noCipherSelected).word.setWidth 16 = 0x0314 ∧
    (st.raised .noModeSelected).word.setWidth 16 = 0x0414 ∧
    (st.raised .missingKeyMaterial).word.setWidth 16 = 0x0514 ∧
    (st.raised .noKeySchedule).word.setWidth 16 = 0x0614 ∧
    (st.raised .missingIv).word.setWidth 16 = 0x0714 ∧
    (st.raised .lengthAboveCapacity).word.setWidth 16 = 0x0814 ∧
    (st.raised .zeroLengthPayload).word.setWidth 16 = 0x0914 ∧
    (st.raised .saltNotEightBytes).word.setWidth 16 = 0x0A14 ∧
    (st.raised .shorterThanOneBlock).word.setWidth 16 = 0x2044 ∧
    (st.raised .notWholeBlocks).word.setWidth 16 = 0x2144 ∧
    (st.raised .padCountOutOfRange).word.setWidth 16 = 0x2244 ∧
    (st.raised .stretchRejected).word.setWidth 16 = 0x3034

/-- R201, columns "raised by": the causes each command can raise, by number. -/
def Obligations.CausesOfEachCommand : Prop :=
  ∀ (i : Instr) (s t : State), exec i s = .next t → t.status.err = true →
    t.status.cause ∈ (match i with
      | .kexp => [0x03, 0x05]
      | .encb => [0x06]
      | .decb => [0x06]
      | .apply md _ =>
        if md = some .ctr then [0x06, 0x07, 0x08, 0x09]
        else if md = some .ecb then [0x06, 0x08, 0x09, 0x20, 0x21]
        else if md = some .cbc then [0x06, 0x07, 0x08, 0x09, 0x20, 0x21]
        else [0x04]
      | .pada _ => [0x08, 0x09]
      | .padr np => if np = true then [0x08, 0x09, 0x20, 0x21] else [0x08, 0x09, 0x20, 0x21, 0x22]
      | .xform md dir np =>
        if md = none then [0x04]
        else (if md = some .ecb then [] else [0x07]) ++ [0x06, 0x08, 0x09] ++
          (if md = some .ctr ∨ dir = .encrypt then []
            else if np = true then [0x20, 0x21] else [0x20, 0x21, 0x22])
      | .draw _ _ => [0x08, 0x05]
      | .div _ rnd => if rnd = true then [] else [0x08]
      | .stretch _ kdf => if kdf = .pbkdf2 then [0x08, 0x05] else [0x08, 0x05, 0x30]
      | .saltgen => []
      | .hdr fr => if fr = .salted then [0x0A] else [0x07]
      | .clr => [] : List (BitVec 8))

/-! ### Host accesses -/

/-- R40, R42: an access outside the register space faults; inside it, a core that is ready (not
busy, the host's wait over) refuses exactly the accesses R42 does not allow. That an outside access faults, and which
accesses of reserved offsets R42 allows, are the model's reading (log entries 8, 9). -/
def Obligations.RefusesExactlyIllFormedAccesses : Prop :=
  ∀ (s : State) (e : HostEvent) (rest : List HostEvent),
    s.pending = e :: rest → s.ready →
      (step s = .fault .outsideRegisterSpace ↔ e.inSpace = false) ∧
      (e.inSpace = true →
        (step s = .refused .illFormedAccess ↔ e.wellFormed s.bufCap = false)) ∧
      (e.wellFormed s.bufCap = true → ∃ t, step s = .next t)

/-- R52, R226: while `BUSY = 1` a read of `STATUS` answers `STATUS` with bit 0 set and changes nothing, and any other
host access is refused. A write of `CMD` begins the host's wait; until a read of `STATUS` answers with bit 0 clear, which
ends it and changes nothing else, any other access is refused too. (The reset is no access, R220.) The names of the
refusals and the field `mustPoll` are the model's own (log entries 10, 18). -/
def Obligations.BusyAccessesRefused : Prop :=
  ∀ (s : State) (e : HostEvent) (rest : List HostEvent), s.pending = e :: rest →
    (s.status.busy = true →
      (e = .readWord 0x004 →
        step s = .next { s with pending := rest, readData := some (.word s.status.word) } ∧
          s.status.word.getLsbD 0 = true) ∧
      (e ≠ .readWord 0x004 → e ≠ .reset → step s = .refused .accessWhileBusy)) ∧
    (s.status.busy = false → s.mustPoll = true →
      (e = .readWord 0x004 →
        step s = .next { s with pending := rest, readData := some (.word s.status.word),
                                mustPoll := false } ∧
          s.status.word.getLsbD 0 = false) ∧
      (e ≠ .readWord 0x004 → e ≠ .reset → step s = .refused .accessBeforePoll)) ∧
    ∀ (w : Word) (t : State), e = .writeWord 0x000 w → step s = .next t → t.mustPoll = true

/-- R20, R21, R41, R45, R46: no read has a side effect. A read of a word register or of a byte of a window answers its
value and leaves the core as it was: `CMD` 0, `KSIZE` and `RKSIZE` their two bits with zeros above, `STATUS` the fields
of R21 at their bits and 0 elsewhere, every other register its 32 bits, and byte `i` of a window byte `i` of its
array, for the memory windows the byte at the same offset. -/
def Obligations.ReadsAnswerAndChangeNothing : Prop :=
  ∀ (s : State) (rest : List HostEvent), s.ready → Config.legalBufCap s.bufCap →
    (∀ r : WordReg, s.pending = .readWord r.offset :: rest →
      step s = .next { s with pending := rest, readData := some (.word (s.readReg r)) }) ∧
    (∀ (w : Window) (i : Nat), i < w.size s.bufCap → s.pending = .readByte (w.base + i) :: rest →
      step s = .next { s with pending := rest, readData := some (.byte (s.readWindow w i)) }) ∧
    (∀ (off : Nat) (t : State),
      s.pending = .readWord off :: rest ∨ s.pending = .readByte off :: rest → step s = .next t →
        ∃ d, t = { s with pending := rest, readData := some d }) ∧
    (∀ (off : Nat) (v : Word), s.pending = .readWord off :: rest →
      (off = 0x000 ∧ v = 0) ∨ (off = 0x008 ∧ v = s.kSize.setWidth 32) ∨
        (off = 0x00C ∧ v = s.rkSize.setWidth 32) ∨ (off = 0x010 ∧ v = s.iter) ∨
        (off = 0x014 ∧ v = s.iLen) ∨ (off = 0x018 ∧ v = s.oLen) ∨ (off = 0x01C ∧ v = s.pwLen) ∨
        (off = 0x020 ∧ v = s.sLen) ∨ (off = 0x024 ∧ v = s.kmLen) ∨ (off = 0x028 ∧ v = s.ivnLen) →
        step s = .next { s with pending := rest, readData := some (.word v) }) ∧
    (s.pending = .readWord 0x004 :: rest →
      ∃ v : Word, step s = .next { s with pending := rest, readData := some (.word v) } ∧
        v.getLsbD 0 = s.status.busy ∧ v.getLsbD 1 = s.status.done ∧ v.getLsbD 2 = s.status.err ∧
        v.getLsbD 3 = false ∧ v.extractLsb' 4 3 = s.status.errKind ∧ v.getLsbD 7 = false ∧
        v.extractLsb' 8 8 = s.status.cause ∧ v.getLsbD 16 = s.status.keyV ∧
        v.getLsbD 17 = s.status.ivV ∧ v.getLsbD 18 = s.status.rkV ∧ v.extractLsb' 19 5 = 0 ∧
        v.getLsbD 24 = s.status.advS ∧ v.getLsbD 25 = s.status.advL ∧ v.extractLsb' 26 6 = 0) ∧
    (∀ (base i : Nat) (b : Byte), s.pending = .readByte (base + i) :: rest →
      (base = 0x040 ∧ i < 32 ∧ b = byteAt s.key i) ∨ (base = 0x060 ∧ i < 16 ∧ b = byteAt s.ivr i) ∨
        (base = 0x070 ∧ i < 16 ∧ b = byteAt s.blk i) ∨ (base = 0x080 ∧ i < 16 ∧ b = byteAt s.hdr i) ∨
        (base = 0x0C0 ∧ i < 48 ∧ b = byteAt s.str i) ∨ (base = 0x100 ∧ i < 240 ∧ b = byteAt s.rks i) ∨
        (((base = 0x200 ∧ i < 64) ∨ (base = 0x240 ∧ i < 64) ∨ (base = 0x280 ∧ i < 64) ∨
          (base = 0x300 ∧ i < 256) ∨ (base = 0x10000 ∧ i < s.bufCap) ∨
          (base = 0x20000 ∧ i < s.bufCap + 16)) ∧ b = s.mem.read (base + i)) →
        step s = .next { s with pending := rest, readData := some (.byte b) })

/-- R44: a read of a reserved offset, or of `CMD`, answers 0; a write to a reserved offset or to a read-only
register or window is ignored. Which accesses of reserved offsets, those R46 does not list, have a meaning at all is the
model's reading of R42 beside R44 (`HostEvent.wellFormed`; log entry 8). -/
def Obligations.ReservedAndReadOnlyAccesses : Prop :=
  ∀ (s : State) (rest : List HostEvent), s.ready → Config.legalBufCap s.bufCap →
    (∀ off, s.pending = .readWord off :: rest →
      (HostEvent.readWord off).wellFormed s.bufCap = true → off = 0 ∨ atWordRegister off = false →
        step s = .next { s with pending := rest, readData := some (.word 0) }) ∧
    (∀ off, s.pending = .readByte off :: rest →
      (HostEvent.readByte off).wellFormed s.bufCap = true → inByteWindow s.bufCap off = false →
        step s = .next { s with pending := rest, readData := some (.byte 0) }) ∧
    (∀ off v, s.pending = .writeWord off v :: rest →
      (HostEvent.writeWord off v).wellFormed s.bufCap = true →
        atWordRegister off = false ∨ off = 0x004 ∨ off = 0x00C ∨ off = 0x018 →
          step s = .next { s with pending := rest }) ∧
    (∀ off b, s.pending = .writeByte off b :: rest →
      (HostEvent.writeByte off b).wellFormed s.bufCap = true →
        inByteWindow s.bufCap off = false ∨ (0x080 ≤ off ∧ off < 0x090) ∨
          (0x0C0 ≤ off ∧ off < 0x0F0) ∨ (0x100 ≤ off ∧ off < 0x1F0) ∨ 0x20000 ≤ off →
          step s = .next { s with pending := rest })

/-- R20, R45: a write to `ITER` or to a length register stores all 32 bits, and nothing else happens. -/
def Obligations.WordWritesOnlyStore : Prop :=
  ∀ (s : State) (v : Word) (rest : List HostEvent), s.ready →
    (s.pending = .writeWord 0x010 v :: rest → step s = .next { s with pending := rest, iter := v }) ∧
    (s.pending = .writeWord 0x014 v :: rest → step s = .next { s with pending := rest, iLen := v }) ∧
    (s.pending = .writeWord 0x01C v :: rest → step s = .next { s with pending := rest, pwLen := v }) ∧
    (s.pending = .writeWord 0x020 v :: rest → step s = .next { s with pending := rest, sLen := v }) ∧
    (s.pending = .writeWord 0x024 v :: rest → step s = .next { s with pending := rest, kmLen := v }) ∧
    (s.pending = .writeWord 0x028 v :: rest → step s = .next { s with pending := rest, ivnLen := v })

/-- R13, R20, R26: a write of any byte of `KEY`, or of `KSIZE`, invalidates the schedule: `RKV <- 0`,
`RKSIZE <- 3`, whatever value is written; the write of `KEY` sets `KEYV`, `KSIZE` stores bits [1:0]. -/
def Obligations.KeyAndSizeWritesInvalidate : Prop :=
  ∀ (s : State) (rest : List HostEvent), s.ready →
    (∀ (i : Nat) (b : Byte), i < 32 → s.pending = .writeByte (0x040 + i) b :: rest →
      ∃ t, step s = .next t ∧
        (∀ j, j < 32 → byteAt t.key j = if j = i then b else byteAt s.key j) ∧
        t = { s with pending := rest, key := t.key, rkSize := 3,
                     status := { s.status with keyV := true, rkV := false } }) ∧
    (∀ v : Word, s.pending = .writeWord 0x008 v :: rest →
      step s = .next { s with pending := rest, kSize := v.extractLsb' 0 2, rkSize := 3,
                              status := { s.status with rkV := false } })

/-- R14, R45: a write of a byte of `IVR` stores it and sets `IVV`; the schedule stays valid. A write of a byte of
`BLK` only stores it (R15, R45). -/
def Obligations.IvrAndBlkWrites : Prop :=
  ∀ (s : State) (rest : List HostEvent) (i : Nat) (b : Byte), s.ready → i < 16 →
    (s.pending = .writeByte (0x060 + i) b :: rest →
      ∃ t, step s = .next t ∧
        (∀ j, j < 16 → byteAt t.ivr j = if j = i then b else byteAt s.ivr j) ∧
        t = { s with pending := rest, ivr := t.ivr, status := { s.status with ivV := true } }) ∧
    (s.pending = .writeByte (0x070 + i) b :: rest →
      ∃ t, step s = .next t ∧
        (∀ j, j < 16 → byteAt t.blk j = if j = i then b else byteAt s.blk j) ∧
        t = { s with pending := rest, blk := t.blk })

/-- R19, R45: a write of a byte of `SALT`, `KMAT`, `PWD` or `IBUF` stores the byte, of `IVNIB` its low nibble;
every other byte of memory reads as before, no register changes, and the canonical form of memory is kept. -/
def Obligations.BufferWritesOnlyStore : Prop :=
  ∀ (s : State) (rest : List HostEvent) (w : Window) (i : Nat) (b : Byte),
    s.ready → Config.legalBufCap s.bufCap →
    w = .salt ∨ w = .ivnib ∨ w = .kmat ∨ w = .pwd ∨ w = .ibuf → i < w.size s.bufCap →
    s.pending = .writeByte (w.base + i) b :: rest →
      ∃ t, step s = .next t ∧
        t.mem.read (w.base + i) = (if w = .ivnib then b &&& 0x0F else b) ∧
        (∀ a, a ≠ w.base + i → t.mem.read a = s.mem.read a) ∧
        (s.mem.wf → t.mem.wf) ∧
        t = { s with pending := rest, mem := t.mem }

/-! ### Key schedule -/

/-- R95, R204: `KEXP` with a key size selected and a key written expands the key into `RKS`, sets `RKV` and copies
`KSIZE` to `RKSIZE`, and nothing else changes; with no key size selected it raises 0x03, else with no key
written 0x05. -/
def Obligations.KexpResultAndErrors : Prop :=
  ∀ s : State,
    (∀ ks, keySizeOfCode s.kSize = some ks → s.status.keyV = true →
      exec .kexp s = .next { s with
        rks := expandKey ks s.key, rkSize := s.kSize,
        status := { doneStatus s.status with rkV := true } }) ∧
    (s.kSize = 3 → exec .kexp s = .next (failed 1 0x03 s)) ∧
    (s.kSize ≠ 3 → s.status.keyV = false → exec .kexp s = .next (failed 1 0x05 s))

/-- R91, R92, R93 and R95's tail: the first Nk words are the key's significant bytes, every further word is the
word Nk back XOR `t`, with `t` of the previous word by rotation, S-box and `RCON`; bytes from 16(Nr+1) on are 0; and
key bytes from 4Nk on are not read. The 256-bit branch `i mod 8 = 4` is R93's resolution of conflict C1. -/
def Obligations.ScheduleRecurrence : Prop :=
  ∀ (ks : KeySize) (key : Vector Byte 32),
    (∀ i j, i < keyWords ks → j < 4 →
      scheduleByte (expandKey ks key) i j = byteAt key (4 * i + j)) ∧
    (∀ i j, keyWords ks ≤ i → i < 4 * (rounds ks + 1) → j < 4 →
      scheduleByte (expandKey ks key) i j =
        scheduleByte (expandKey ks key) (i - keyWords ks) j ^^^
          (if i % keyWords ks = 0 then
            sbox (scheduleByte (expandKey ks key) (i - 1) ((j + 1) % 4)) ^^^
              (if j = 0 then rcon (i / keyWords ks) else 0)
          else if keyWords ks = 8 ∧ i % 8 = 4 then sbox (scheduleByte (expandKey ks key) (i - 1) j)
          else scheduleByte (expandKey ks key) (i - 1) j)) ∧
    (∀ p, 16 * (rounds ks + 1) ≤ p → byteAt (expandKey ks key) p = 0) ∧
    ∀ key' : Vector Byte 32, (∀ i, i < keyBytes ks → byteAt key i = byteAt key' i) →
      expandKey ks key = expandKey ks key'

/-! ### Tables and block transform -/

/-- R82: `gmul` is commutative and associative, distributes over `^`, has 0x01 as unit and 0x00 as zero, and
multiplies by 0x02 and 0x03 as the rule says; with its worked examples. -/
def Obligations.FieldMultiplicationLaws : Prop :=
  (∀ a b : Byte, gmul a b = gmul b a) ∧
  (∀ a b c : Byte, gmul (gmul a b) c = gmul a (gmul b c)) ∧
  (∀ a b c : Byte, gmul a (b ^^^ c) = gmul a b ^^^ gmul a c) ∧
  (∀ a : Byte, gmul a 0x01 = a ∧ gmul a 0x00 = 0x00 ∧ gmul 0x02 a = xtime a ∧
    gmul 0x03 a = xtime a ^^^ a) ∧
  gmul 0x57 0x83 = 0xC1 ∧ gmul 0x57 0x13 = 0xFE

/-- R83, R84, R85: the table `SBOX` is the affine map of the inverse in GF(2^8), `INVSBOX` undoes it both ways (so
`SBOX` is a permutation), there is no fixed and no opposite fixed point, and the entries R85 names. -/
def Obligations.SubstitutionTables : Prop :=
  sbox 0x00 = 0x63 ∧ sbox 0x01 = 0x7C ∧ sbox 0xFF = 0x16 ∧ Function.Bijective sbox ∧
  ∀ x : Byte,
    (∃ y : Byte, ((x = 0 ∧ y = 0) ∨ gmul x y = 0x01) ∧
      sbox x = y ^^^ y.rotateLeft 1 ^^^ y.rotateLeft 2 ^^^ y.rotateLeft 3 ^^^ y.rotateLeft 4 ^^^
        0x63) ∧
    invSbox (sbox x) = x ∧ sbox (invSbox x) = x ∧ sbox x ≠ x ∧ sbox x ≠ x ^^^ 0xFF

/-- R103, R106: `ShiftRows` rotates row `r` left by `r` cells, `InvShiftRows` right by `r`, and the second undoes
the first. -/
def Obligations.RowShiftsByCells : Prop :=
  ∀ (s : Block) (r c : Nat), r < 4 → c < 4 →
    byteAt (shiftRows s) (r + 4 * c) = byteAt s (r + 4 * ((c + r) % 4)) ∧
    byteAt (invShiftRows s) (r + 4 * c) = byteAt s (r + 4 * ((c + 4 - r) % 4)) ∧
    invShiftRows (shiftRows s) = s

/-- R104, R108: each column of `MixColumns` and `InvMixColumns`, row by row, and that the second undoes the
first. -/
def Obligations.ColumnMixingByRows : Prop :=
  ∀ (s : Block) (c : Nat) (a0 a1 a2 a3 : Byte), c < 4 →
    a0 = byteAt s (4 * c) → a1 = byteAt s (4 * c + 1) → a2 = byteAt s (4 * c + 2) →
    a3 = byteAt s (4 * c + 3) →
      byteAt (mixColumns s) (4 * c) = gmul 0x02 a0 ^^^ gmul 0x03 a1 ^^^ a2 ^^^ a3 ∧
      byteAt (mixColumns s) (4 * c + 1) = a0 ^^^ gmul 0x02 a1 ^^^ gmul 0x03 a2 ^^^ a3 ∧
      byteAt (mixColumns s) (4 * c + 2) = a0 ^^^ a1 ^^^ gmul 0x02 a2 ^^^ gmul 0x03 a3 ∧
      byteAt (mixColumns s) (4 * c + 3) = gmul 0x03 a0 ^^^ a1 ^^^ a2 ^^^ gmul 0x02 a3 ∧
      byteAt (invMixColumns s) (4 * c) =
        gmul 0x0E a0 ^^^ gmul 0x0B a1 ^^^ gmul 0x0D a2 ^^^ gmul 0x09 a3 ∧
      byteAt (invMixColumns s) (4 * c + 1) =
        gmul 0x09 a0 ^^^ gmul 0x0E a1 ^^^ gmul 0x0B a2 ^^^ gmul 0x0D a3 ∧
      byteAt (invMixColumns s) (4 * c + 2) =
        gmul 0x0D a0 ^^^ gmul 0x09 a1 ^^^ gmul 0x0E a2 ^^^ gmul 0x0B a3 ∧
      byteAt (invMixColumns s) (4 * c + 3) =
        gmul 0x0B a0 ^^^ gmul 0x0D a1 ^^^ gmul 0x09 a2 ^^^ gmul 0x0E a3 ∧
      invMixColumns (mixColumns s) = s

/-- R112: for every schedule `InvCipher` and `Cipher` undo each other, `Cipher` is a permutation of the blocks, and
both read `RKS[0 .. 16(Nr+1))` and nothing else of it. It holds for every 240 bytes in `RKS`, those `KEXP` makes
among them. -/
def Obligations.CipherLaws : Prop :=
  ∀ (ks : KeySize) (rks : Vector Byte 240),
    (∀ x, invCipher rks (rounds ks) (cipher rks (rounds ks) x) = x) ∧
    (∀ x, cipher rks (rounds ks) (invCipher rks (rounds ks) x) = x) ∧
    Function.Bijective (cipher rks (rounds ks)) ∧
    ∀ rks' : Vector Byte 240,
      (∀ p, p < 16 * (rounds ks + 1) → byteAt rks p = byteAt rks' p) → ∀ x,
        cipher rks (rounds ks) x = cipher rks' (rounds ks) x ∧
        invCipher rks (rounds ks) x = invCipher rks' (rounds ks) x

/-- R110, R111: with a schedule, `ENCB` replaces `BLK` by `Cipher` of it and `DECB` by `InvCipher` of it, the round
count by `RKSIZE`, and nothing else changes; with `RKV = 0` both raise ConfigurationError 0x06. -/
def Obligations.BlockCommandResults : Prop :=
  ∀ s : State,
    (∀ ks, s.hasSchedule ks →
      exec .encb s =
        .next { s with blk := cipher s.rks (rounds ks) s.blk, status := doneStatus s.status } ∧
      exec .decb s =
        .next { s with blk := invCipher s.rks (rounds ks) s.blk, status := doneStatus s.status }) ∧
    (s.status.rkV = false →
      exec .encb s = .next (failed 1 0x06 s) ∧ exec .decb s = .next (failed 1 0x06 s))

/-- R111: "`ENCB` then `DECB` (or `DECB` then `ENCB`) with the same schedule restores `BLK`", and everything else
of the state but `STATUS`. -/
def Obligations.EncryptThenDecryptRestoresBlock : Prop :=
  ∀ (s : State) (ks : KeySize), s.hasSchedule ks →
    (∃ t, exec .encb s = .next t ∧ exec .decb t = .next { s with status := doneStatus s.status }) ∧
    (∃ t, exec .decb s = .next t ∧ exec .encb t = .next { s with status := doneStatus s.status })

/-! ### Modes -/

/-- R121, R122, R124, R125: ECB and CBC block by block, for a payload of whole blocks. -/
def Obligations.EcbAndCbcBlockEquations : Prop :=
  ∀ (rks : Vector Byte 240) (nr : Nat) (iv : Block) (x : List Byte) (i : Nat),
    x.length % 16 = 0 → i < x.length / 16 →
      (∀ md dir, (modeRun md dir rks nr iv x).length = x.length) ∧
      blockAt (modeRun .ecb .encrypt rks nr iv x) i = cipher rks nr (blockAt x i) ∧
      blockAt (modeRun .ecb .decrypt rks nr iv x) i = invCipher rks nr (blockAt x i) ∧
      blockAt (modeRun .cbc .encrypt rks nr iv x) i =
        cipher rks nr (xorBlock (blockAt x i)
          (if i = 0 then iv else blockAt (modeRun .cbc .encrypt rks nr iv x) (i - 1))) ∧
      blockAt (modeRun .cbc .decrypt rks nr iv x) i =
        xorBlock (invCipher rks nr (blockAt x i)) (if i = 0 then iv else blockAt x (i - 1))

/-- R126: in CTR byte `p` of the payload is XORed with byte `p mod 16` of the encrypted counter
`(be128(iv) + p div 16) mod 2^128`, in both directions and for every length. The counter is a big-endian 128-bit
integer, stepped by 1, and all ones is followed by all zeros. -/
def Obligations.CtrKeystreamAndCounter : Prop :=
  (∀ (rks : Vector Byte 240) (nr : Nat) (iv : Block) (dir : Dir) (x : List Byte),
    (modeRun .ctr dir rks nr iv x).length = x.length ∧
    ∀ p, p < x.length →
      (modeRun .ctr dir rks nr iv x).getD p 0 =
        x.getD p 0 ^^^
          byteAt (cipher rks nr (be128inv ((be128 iv + p / 16) % 2 ^ 128))) (p % 16)) ∧
  (∀ c : Block, be128 c < 2 ^ 128 ∧ be128inv (be128 c) = c ∧
    be128 (nextCounter c) = (be128 c + 1) % 2 ^ 128) ∧
  (∀ n, n < 2 ^ 128 → be128 (be128inv n) = n) ∧
  nextCounter (Vector.replicate 16 0xFF) = Vector.replicate 16 0x00

/-- R129: for every schedule, IV, mode and admissible input, decrypting what was encrypted gives the input. -/
def Obligations.ModeRoundTrip : Prop :=
  ∀ (md : Mode) (ks : KeySize) (rks : Vector Byte 240) (iv : Block) (x : List Byte),
    md = .ctr ∨ x.length % 16 = 0 →
      modeRun md .decrypt rks (rounds ks) iv (modeRun md .encrypt rks (rounds ks) iv x) = x

/-- R128: what `APPLY` leaves where its checks pass: `Mode` of the payload in `OBUF`, `OLEN = ILEN`, every other
byte of memory and every other register as before. -/
def Obligations.ApplyResult : Prop :=
  ∀ (s : State) (m : Mode) (dir : Dir) (ks : KeySize),
    s.hasSchedule ks → s.hasIv m → s.hasPayload → m = .ctr ∨ s.iLen.toNat % 16 = 0 →
      ∃ t, exec (.apply (some m) dir) s = .next t ∧
        t.mem.bytes 0x20000 s.iLen.toNat = modeRun m dir s.rks (rounds ks) s.ivr s.payload ∧
        (∀ a, a < 0x20000 ∨ 0x20000 + s.iLen.toNat ≤ a → t.mem.read a = s.mem.read a) ∧
        t = { s with mem := t.mem, oLen := s.iLen, status := doneStatus s.status }

/-- R128, R204: the causes of `APPLY`, each where every check before it passes. `RKV = 1` comes with `RKSIZE`
other than 3 (`ScheduleInv`). -/
def Obligations.ApplyErrors : Prop :=
  ∀ (s : State) (m : Mode) (dir : Dir), ScheduleInv s →
    exec (.apply none dir) s = .next (failed 1 0x04 s) ∧
    (s.status.rkV = false → exec (.apply (some m) dir) s = .next (failed 1 0x06 s)) ∧
    (s.status.rkV = true →
      (¬s.hasIv m → exec (.apply (some m) dir) s = .next (failed 1 0x07 s)) ∧
      (s.hasIv m →
        (s.bufCap < s.iLen.toNat → exec (.apply (some m) dir) s = .next (failed 1 0x08 s)) ∧
        (s.iLen.toNat = 0 → exec (.apply (some m) dir) s = .next (failed 1 0x09 s)) ∧
        (m ≠ .ctr → s.hasPayload →
          (s.iLen.toNat < 16 → exec (.apply (some m) dir) s = .next (failed 4 0x20 s)) ∧
          (16 < s.iLen.toNat → s.iLen.toNat % 16 ≠ 0 →
            exec (.apply (some m) dir) s = .next (failed 4 0x21 s)))))

/-- R128: "Running `APPLY` twice with the same registers gives the same output, CTR included, because `IVR` is not
advanced": the second run changes nothing. -/
def Obligations.ApplyTwiceIsApplyOnce : Prop :=
  ∀ (s t : State) (md : Option Mode) (dir : Dir), Config.legalBufCap s.bufCap →
    exec (.apply md dir) s = .next t → t.status.done = true → exec (.apply md dir) t = .next t

/-! ### Padding and the combined transform -/

/-- R136, R138, R139: unpadding undoes padding; under `nopkcs` an aligned string is unchanged by both, and an
unaligned one comes back with its pad bytes; the pad bytes before the count are not looked at. -/
def Obligations.PaddingLaws : Prop :=
  (∀ x : List Byte, padRemove false (padAdd false x) = .ok x) ∧
  (∀ x : List Byte, x.length % 16 = 0 → padAdd true x = x) ∧
  (∀ x : List Byte, x.length % 16 ≠ 0 → padAdd true x = padAdd false x) ∧
  (∀ x : List Byte, padRemove true (padAdd true x) = .ok (padAdd true x)) ∧
  (∀ (np : Bool) (x : List Byte), (padAdd np x).length % 16 = 0) ∧
  (∀ (y z : List Byte) (p : Byte), 1 ≤ p.toNat → p.toNat ≤ 16 → z.length = p.toNat - 1 →
    padRemove false (y ++ z ++ [p]) = .ok y) ∧
  (∀ (y : List Byte) (p : Byte), p.toNat = 0 ∨ 16 < p.toNat →
    padRemove false (y ++ [p]) = .error .padCountOutOfRange)

/-- R140: `PADA` with `1 <= ILEN <= BUFCAP` leaves the payload in `OBUF`, followed by `p = 16 - (ILEN mod 16)` bytes
`p` but for the suppressed full block, with `OLEN` to match; every other byte of memory and register as before. -/
def Obligations.PadaResult : Prop :=
  ∀ (s : State) (np : Bool) (n p : Nat), Config.legalBufCap s.bufCap → s.hasPayload →
    p = (if np = true ∧ s.iLen.toNat % 16 = 0 then 0 else 16 - s.iLen.toNat % 16) →
    n = s.iLen.toNat + p →
      ∃ t, exec (.pada np) s = .next t ∧
        (∀ i, i < s.iLen.toNat → t.mem.read (0x20000 + i) = s.mem.read (0x10000 + i)) ∧
        (∀ i, s.iLen.toNat ≤ i → i < n → t.mem.read (0x20000 + i) = BitVec.ofNat 8 p) ∧
        (∀ a, a < 0x20000 ∨ 0x20000 + n ≤ a → t.mem.read a = s.mem.read a) ∧
        t = { s with mem := t.mem, oLen := BitVec.ofNat 32 n, status := doneStatus s.status }

/-- R141: `PADR` on whole blocks. Under `nopkcs` it copies them; else it takes the last byte `p` off, with the
`p - 1` before it, where `1 <= p <= 16`. -/
def Obligations.PadrResult : Prop :=
  ∀ (s : State) (np : Bool) (n p : Nat), Config.legalBufCap s.bufCap → s.hasPayload →
    s.iLen.toNat % 16 = 0 →
    p = (if np = true then 0 else (s.mem.read (0x10000 + (s.iLen.toNat - 1))).toNat) →
    (np = false → 1 ≤ p ∧ p ≤ 16) → n = s.iLen.toNat - p →
      ∃ t, exec (.padr np) s = .next t ∧
        (∀ i, i < n → t.mem.read (0x20000 + i) = s.mem.read (0x10000 + i)) ∧
        (∀ a, a < 0x20000 ∨ 0x20000 + n ≤ a → t.mem.read a = s.mem.read a) ∧
        t = { s with mem := t.mem, oLen := BitVec.ofNat 32 n, status := doneStatus s.status }

/-- R140, R141, R204: the causes of `PADA` and `PADR`, each where every check before it passes. -/
def Obligations.PaddingCommandErrors : Prop :=
  ∀ (s : State) (np : Bool),
    (s.bufCap < s.iLen.toNat →
      exec (.pada np) s = .next (failed 1 0x08 s) ∧ exec (.padr np) s = .next (failed 1 0x08 s)) ∧
    (s.iLen.toNat = 0 →
      exec (.pada np) s = .next (failed 1 0x09 s) ∧ exec (.padr np) s = .next (failed 1 0x09 s)) ∧
    (s.hasPayload →
      (s.iLen.toNat < 16 → exec (.padr np) s = .next (failed 4 0x20 s)) ∧
      (16 < s.iLen.toNat → s.iLen.toNat % 16 ≠ 0 → exec (.padr np) s = .next (failed 4 0x21 s)) ∧
      (s.iLen.toNat % 16 = 0 → ∀ p, p = (s.mem.read (0x10000 + (s.iLen.toNat - 1))).toNat →
        p = 0 ∨ 16 < p → exec (.padr false) s = .next (failed 4 0x22 s)))

/-- R145, R143: what `XFORM` leaves where its checks pass: `Transform` of the payload in `OBUF` (CTR the mode alone,
encryption the mode of the padded payload, decryption the mode's output unpadded), `OLEN` its length, every other
byte of memory and every other register as before. -/
def Obligations.XformResult : Prop :=
  ∀ (s : State) (m : Mode) (dir : Dir) (np : Bool) (ks : KeySize) (out : List Byte),
    Config.legalBufCap s.bufCap → s.hasSchedule ks → s.hasIv m → s.hasPayload →
    (m ≠ .ctr → dir = .decrypt → s.iLen.toNat % 16 = 0) →
    (m = .ctr → out = modeRun .ctr dir s.rks (rounds ks) s.ivr s.payload) →
    (m ≠ .ctr → dir = .encrypt →
      out = modeRun m .encrypt s.rks (rounds ks) s.ivr (padAdd np s.payload)) →
    (m ≠ .ctr → dir = .decrypt →
      padRemove np (modeRun m .decrypt s.rks (rounds ks) s.ivr s.payload) = .ok out) →
      ∃ t, exec (.xform (some m) dir np) s = .next t ∧
        t.mem.bytes 0x20000 out.length = out ∧
        (∀ a, a < 0x20000 ∨ 0x20000 + out.length ≤ a → t.mem.read a = s.mem.read a) ∧
        t = { s with mem := t.mem, oLen := BitVec.ofNat 32 out.length,
                     status := doneStatus s.status }

/-- R145's table of output lengths; where a pad is removed, `p` is the last byte of what the mode decrypted. -/
def Obligations.XformOutputLength : Prop :=
  ∀ (s t : State) (m : Mode) (dir : Dir) (np : Bool), Config.legalBufCap s.bufCap →
    exec (.xform (some m) dir np) s = .next t → t.status.done = true →
      (m = .ctr → t.oLen = s.iLen) ∧
      (m ≠ .ctr → dir = .encrypt → np = true → s.iLen.toNat % 16 = 0 → t.oLen = s.iLen) ∧
      (m ≠ .ctr → dir = .encrypt → np = false ∨ s.iLen.toNat % 16 ≠ 0 →
        t.oLen.toNat = s.iLen.toNat + 16 - s.iLen.toNat % 16) ∧
      (m ≠ .ctr → dir = .decrypt → np = true → t.oLen = s.iLen) ∧
      (m ≠ .ctr → dir = .decrypt → np = false →
        ∃ ks p, s.hasSchedule ks ∧
          p = ((modeRun m .decrypt s.rks (rounds ks) s.ivr s.payload).getLastD 0).toNat ∧
          1 ≤ p ∧ p ≤ 16 ∧ t.oLen.toNat + p = s.iLen.toNat)

/-- R145, R204: the causes of `XFORM`, each where every check before it passes; 0x22 where the last decrypted byte
is 0 or above 16. -/
def Obligations.XformErrors : Prop :=
  ∀ (s : State) (m : Mode) (dir : Dir) (np : Bool), ScheduleInv s →
    exec (.xform none dir np) s = .next (failed 1 0x04 s) ∧
    (s.status.rkV = false → exec (.xform (some m) dir np) s = .next (failed 1 0x06 s)) ∧
    (s.status.rkV = true →
      (¬s.hasIv m → exec (.xform (some m) dir np) s = .next (failed 1 0x07 s)) ∧
      (s.hasIv m →
        (s.bufCap < s.iLen.toNat → exec (.xform (some m) dir np) s = .next (failed 1 0x08 s)) ∧
        (s.iLen.toNat = 0 → exec (.xform (some m) dir np) s = .next (failed 1 0x09 s)) ∧
        (m ≠ .ctr → dir = .decrypt → s.hasPayload →
          (s.iLen.toNat < 16 → exec (.xform (some m) dir np) s = .next (failed 4 0x20 s)) ∧
          (16 < s.iLen.toNat → s.iLen.toNat % 16 ≠ 0 →
            exec (.xform (some m) dir np) s = .next (failed 4 0x21 s)) ∧
          (∀ ks p, s.hasSchedule ks → s.iLen.toNat % 16 = 0 → np = false →
            p = ((modeRun m .decrypt s.rks (rounds ks) s.ivr s.payload).getLastD 0).toNat →
            p = 0 ∨ 16 < p → exec (.xform (some m) dir np) s = .next (failed 4 0x22 s)))))

/-- R135, R145: "`XFORM ctr` equals `APPLY ctr`", `nopkcs` or not, and in CTR the direction has no effect (R126). -/
def Obligations.CtrNeverPads : Prop :=
  ∀ (s : State) (dir dir' : Dir) (np : Bool),
    exec (.xform (some .ctr) dir np) s = exec (.apply (some .ctr) dir) s ∧
    exec (.apply (some .ctr) dir) s = exec (.apply (some .ctr) dir') s

/-- R146: for every key size, IV and plaintext, decrypting what was encrypted gives the plaintext: in ECB and CBC under
the default policy, and under `nopkcs` where the plaintext is whole blocks; in CTR for any length and policy. -/
def Obligations.TransformRoundTrip : Prop :=
  ∀ (md : Mode) (ks : KeySize) (rks : Vector Byte 240) (iv : Block) (x y : List Byte) (np : Bool),
    x ≠ [] → md = .ctr ∨ np = false ∨ x.length % 16 = 0 →
    transform md .encrypt np rks (rounds ks) iv x = .ok y →
      transform md .decrypt np rks (rounds ks) iv y = .ok x

/-- R146 and R129 on the machine: whatever mode, if `XFORM` encrypted the payload of `s` and a state `s'` with the
same schedule and IV has that output as its payload, `XFORM` of `s'` decrypts it to the payload of `s`. -/
def Obligations.XformDecryptsWhatItEncrypted : Prop :=
  ∀ (s t s' : State) (m : Mode) (np : Bool),
    Config.legalBufCap s.bufCap → Config.legalBufCap s'.bufCap →
    m = .ctr ∨ np = false ∨ s.iLen.toNat % 16 = 0 →
    exec (.xform (some m) .encrypt np) s = .next t → t.status.done = true →
    s'.status.rkV = true → s'.rkSize = s.rkSize → s'.rks = s.rks → s'.ivr = s.ivr →
    s'.status.ivV = s.status.ivV → s'.iLen = t.oLen → t.oLen.toNat ≤ s'.bufCap →
    s'.payload = t.mem.bytes 0x20000 t.oLen.toNat →
      ∃ u, exec (.xform (some m) .decrypt np) s' = .next u ∧ u.status.done = true ∧
        u.oLen = s.iLen ∧ u.mem.bytes 0x20000 u.oLen.toNat = s.payload

/-! ### Key derivation -/

/-- R151, R152: `DRAW` with `1 <= KMLEN <= 64` copies the material into `KEY`, left-aligned and zero-filled, at the
size given or inferred (`<= 16`, `17..24`, `> 24`), invalidates the schedule, and unless quiet reports material
shorter or longer than that size. -/
def Obligations.DrawResult : Prop :=
  ∀ (s : State) (ks : Option KeySize) (q : Bool) (n : Nat) (k : KeySize),
    n = s.kmLen.toNat → n ≠ 0 → n ≤ 64 →
    (∀ k', ks = some k' → k = k') →
    (ks = none → k = if n ≤ 16 then .k128 else if n ≤ 24 then .k192 else .k256) →
      ∃ t, exec (.draw ks q) s = .next t ∧
        (∀ j, j < 32 → byteAt t.key j =
          if j < n ∧ j < keyBytes k then s.mem.read (0x280 + j) else 0) ∧
        t = { s with
          key := t.key, kSize := k.code, rkSize := 3,
          status := { doneStatus s.status with
            keyV := true, rkV := false,
            advS := !q && decide (n < keyBytes k), advL := !q && decide (keyBytes k < n) } }

/-- R156, R157: `DIV` from digits. Byte `j` of `IVR` is digit `2j` high and digit `2j+1` low, digits past the last
being 0; `IVV` is set, and unless quiet the count of bytes, `ceil(IVNLEN / 2)`, is compared with 16. -/
def Obligations.DivResult : Prop :=
  ∀ (s : State) (q : Bool), s.ivnLen.toNat ≤ 64 →
    ∃ t, exec (.div q false) s = .next t ∧
      (∀ j, j < 16 → byteAt t.ivr j = ivDigit s (2 * j) ++ ivDigit s (2 * j + 1)) ∧
      t = { s with
        ivr := t.ivr,
        status := { doneStatus s.status with
          ivV := true,
          advS := !q && decide ((s.ivnLen.toNat + 1) / 2 < 16),
          advL := !q && decide (16 < (s.ivnLen.toNat + 1) / 2) } }

/-- R157, R163: `DIV random` puts the next 16 bytes of the random source into `IVR`, whatever `IVNLEN` is, with no
advisory. It holds for every random source and every count of bytes drawn before. -/
def Obligations.DivRandomResult : Prop :=
  ∀ (s : State) (q : Bool),
    ∃ t, exec (.div q true) s = .next t ∧
      (∀ j, j < 16 → byteAt t.ivr j = Config.randByte (s.randCount + j)) ∧
      t = { s with ivr := t.ivr, randCount := s.randCount + 16,
                   status := { doneStatus s.status with ivV := true } }

/-- R159, R160, R162: what `STRETCH` leaves of 48 bytes `T` of stretched material: `STR = T`, `KEY = T[0..32)`,
`IVR = T[bits/8 .. bits/8 + 16)` with 256 bits where the size is unspecified, the schedule invalid. `T` is what
PBKDF2 gives at `max(ITER, 1000)` iterations, as an array (it gives 48, `PbkdfGives48Bytes`), or what the bridge
answers. -/
def Obligations.StretchResult : Prop :=
  ∀ (s : State) (ks : Option KeySize) (kdf : Kdf) (k : KeySize) (T : Vector Byte 48),
    s.pwLen.toNat ≠ 0 → s.pwLen.toNat ≤ 256 → s.sLen.toNat ≤ 64 →
    (∀ k', ks = some k' → k = k') → (ks = none → k = .k256) →
    (kdf = .pbkdf2 → T =
      vecOf 48 (pbkdf2 (s.mem.bytes 0x300 s.pwLen.toNat) (s.mem.bytes 0x200 s.sLen.toNat)
        (max s.iter.toNat 1000) 48)) →
    (kdf = .argon2id →
      Config.argon2id (s.mem.bytes 0x300 s.pwLen.toNat) (s.mem.bytes 0x200 s.sLen.toNat) = some T) →
      ∃ t, exec (.stretch ks kdf) s = .next t ∧
        (∀ j, j < 32 → byteAt t.key j = byteAt T j) ∧
        (∀ j, j < 16 → byteAt t.ivr j = byteAt T (keyBytes k + j)) ∧
        t = { s with
          str := T, key := t.key, ivr := t.ivr, kSize := k.code, rkSize := 3,
          status := { doneStatus s.status with keyV := true, ivV := true, rkV := false } }

/-- R178: PBKDF2 is total, and with `dkLen = 48` it gives 48 bytes, `F` at 1 followed by the first 16 of `F` at 2. `F`
at `c = 1` is `U_1`, and at `c + 1` it is `F` at `c` XOR `U_{c+1}`, each `U` the HMAC of the one before and `U_1` that of
the salt and the block index. R175: HMAC of a key of at most 64 bytes, and of a longer one, by SHA-256. R173: SHA-256 of
the rule's three examples, the last of two blocks. The spec marks what these three rules define `[from general knowledge,
not in source]`. -/
def Obligations.PbkdfGives48Bytes : Prop :=
  (∀ (p s : List Byte) (c : Nat),
    (pbkdf2 p s c 48).length = 48 ∧
    pbkdf2 p s c 48 = pbkdf2F p s c 1 ++ (pbkdf2F p s c 2).take 16 ∧
    ∀ i, (pbkdf2F p s c i).length = 32) ∧
  (∀ (p s : List Byte) (j : Byte), ∃ u : Nat → List Byte,
    u 1 = hmacSha256 p (s ++ [0x00, 0x00, 0x00, j]) ∧
    (∀ n, 1 ≤ n → u (n + 1) = hmacSha256 p (u n)) ∧
    pbkdf2F p s 1 j.toNat = u 1 ∧
    ∀ c, 1 ≤ c → pbkdf2F p s (c + 1) j.toNat =
      List.zipWith (fun x y => x ^^^ y) (pbkdf2F p s c j.toNat) (u (c + 1))) ∧
  (∀ k m k0 : List Byte,
    k0 = (if 64 < k.length then sha256 k ++ List.replicate 32 0x00
      else k ++ List.replicate (64 - k.length) 0x00) →
    k0.length = 64 ∧
    hmacSha256 k m =
      sha256 ((k0.map fun x => x ^^^ 0x5C) ++ sha256 ((k0.map fun x => x ^^^ 0x36) ++ m))) ∧
  (∀ m, (sha256 m).length = 32) ∧
  (sha256 []).foldl (fun n x => n * 256 + x.toNat) 0 =
    0xe3b0c44298fc1c149afbf4c8996fb92427ae41e4649b934ca495991b7852b855 ∧
  (sha256 [0x61, 0x62, 0x63]).foldl (fun n x => n * 256 + x.toNat) 0 =
    0xba7816bf8f01cfea414140de5dae2223b00361a396177a9cb410ff61f20015ad ∧
  (sha256 ((List.range 14).flatMap fun i => [0x61, 0x62, 0x63, 0x64].map fun x =>
      x + BitVec.ofNat 8 i)).foldl (fun n x => n * 256 + x.toNat) 0 =
    0x248d6a61d20638b8e5c026930c3e6039a33ce45964ff2167f6ecedd419db06c1

/-- R161: the floor is silent. Two requested counts of at most 1000 give the same result, and to Argon2id any two
(R160); only `ITER` itself differs. -/
def Obligations.IterationFloor : Prop :=
  ∀ (s : State) (ks : Option KeySize) (kdf : Kdf) (a b : Word) (t : State),
    kdf = .argon2id ∨ (a.toNat ≤ 1000 ∧ b.toNat ≤ 1000) →
    exec (.stretch ks kdf) { s with iter := a } = .next t →
      exec (.stretch ks kdf) { s with iter := b } = .next { t with iter := b }

/-- R152, R157, R160, R204: the causes of `DRAW`, `DIV` and `STRETCH`: a length register above its capacity 0x08,
else no key material or password 0x05, and a bridge that answers Reject 0x30. -/
def Obligations.DerivationErrors : Prop :=
  ∀ (s : State) (ks : Option KeySize) (kdf : Kdf) (q : Bool),
    (64 < s.kmLen.toNat → exec (.draw ks q) s = .next (failed 1 0x08 s)) ∧
    (s.kmLen.toNat = 0 → exec (.draw ks q) s = .next (failed 1 0x05 s)) ∧
    (64 < s.ivnLen.toNat → exec (.div q false) s = .next (failed 1 0x08 s)) ∧
    (256 < s.pwLen.toNat ∨ 64 < s.sLen.toNat →
      exec (.stretch ks kdf) s = .next (failed 1 0x08 s)) ∧
    (s.pwLen.toNat = 0 → s.sLen.toNat ≤ 64 →
      exec (.stretch ks kdf) s = .next (failed 1 0x05 s)) ∧
    (s.pwLen.toNat ≠ 0 → s.pwLen.toNat ≤ 256 → s.sLen.toNat ≤ 64 →
      Config.argon2id (s.mem.bytes 0x300 s.pwLen.toNat) (s.mem.bytes 0x200 s.sLen.toNat) = none →
        exec (.stretch ks .argon2id) s = .next (failed 3 0x30 s))

/-- R165: deriving twice from identical inputs (non-random path) yields byte-identical results: a second `DRAW`,
`DIV` or `STRETCH` that completes changes nothing. -/
def Obligations.DerivationIsIdempotent : Prop :=
  ∀ (s t : State) (ks : Option KeySize) (kdf : Kdf) (q : Bool), t.status.done = true →
    (exec (.draw ks q) s = .next t → exec (.draw ks q) t = .next t) ∧
    (exec (.div q false) s = .next t → exec (.div q false) t = .next t) ∧
    (exec (.stretch ks kdf) s = .next t → exec (.stretch ks kdf) t = .next t)

/-! ### Framing -/

/-- R186, R163: `SALTGEN` puts the next 8 bytes of the random source into `SALT[0..8)` and sets `SLEN = 8`; every
other byte of memory and register is as before. It holds for every random source. -/
def Obligations.SaltgenResult : Prop :=
  ∀ s : State, ∃ t, exec .saltgen s = .next t ∧
    (∀ j, j < 8 → t.mem.read (0x200 + j) = Config.randByte (s.randCount + j)) ∧
    (∀ a, a < 0x200 ∨ 0x208 ≤ a → t.mem.read a = s.mem.read a) ∧
    t = { s with mem := t.mem, sLen := 8, randCount := s.randCount + 8,
                 status := doneStatus s.status }

/-- R187, R188: `HDR salted` with an 8-byte salt leaves the marker `53 61 6c 74 65 64 5f 5f` and the salt in the
window `HDR`, with any other length it raises 0x0A; `HDR rawiv` with an IV leaves the IV, with none it raises 0x07.
Nothing else changes. -/
def Obligations.HdrResultAndErrors : Prop :=
  ∀ s : State,
    (s.sLen = 8 → ∃ t, exec (.hdr .salted) s = .next t ∧
      t.hdr.toList.take 8 = [0x53, 0x61, 0x6C, 0x74, 0x65, 0x64, 0x5F, 0x5F] ∧
      (∀ j, j < 8 → byteAt t.hdr (8 + j) = s.mem.read (0x200 + j)) ∧
      t = { s with hdr := t.hdr, status := doneStatus s.status }) ∧
    (s.sLen ≠ 8 → exec (.hdr .salted) s = .next (failed 1 0x0A s)) ∧
    (s.status.ivV = true →
      exec (.hdr .rawIv) s = .next { s with hdr := s.ivr, status := doneStatus s.status }) ∧
    (s.status.ivV = false → exec (.hdr .rawIv) s = .next (failed 1 0x07 s))

/-! ### The whole machine -/

/-- The frame of every command: what no path of it changes, success or error (each command's "Written" list, R95 to
R190). Memory is said by the read of a byte: a buffer command leaves all of it after an error, and after success all below
`OBUF` and all from `OBUF[OLEN]` on. -/
def Obligations.CommandFrame : Prop :=
  ∀ (i : Instr) (s t : State), exec i s = .next t →
    t.bufCap = s.bufCap ∧ t.pending = s.pending ∧ t.readData = s.readData ∧ t.mustPoll = s.mustPoll ∧
    match i with
    | .kexp => t = { s with rks := t.rks, rkSize := t.rkSize, status := t.status } ∧
        t.status.keyV = s.status.keyV ∧ t.status.ivV = s.status.ivV
    | .encb => t = { s with blk := t.blk, status := t.status } ∧
        t.status.keyV = s.status.keyV ∧ t.status.ivV = s.status.ivV ∧ t.status.rkV = s.status.rkV
    | .decb => t = { s with blk := t.blk, status := t.status } ∧
        t.status.keyV = s.status.keyV ∧ t.status.ivV = s.status.ivV ∧ t.status.rkV = s.status.rkV
    | .apply _ _ => t = { s with mem := t.mem, oLen := t.oLen, status := t.status } ∧
        t.status.keyV = s.status.keyV ∧ t.status.ivV = s.status.ivV ∧
        t.status.rkV = s.status.rkV ∧
        ∀ a, t.status.err = true ∨ a < 0x20000 ∨
          (Config.legalBufCap s.bufCap ∧ 0x20000 + t.oLen.toNat ≤ a) → t.mem.read a = s.mem.read a
    | .pada _ => t = { s with mem := t.mem, oLen := t.oLen, status := t.status } ∧
        t.status.keyV = s.status.keyV ∧ t.status.ivV = s.status.ivV ∧
        t.status.rkV = s.status.rkV ∧
        ∀ a, t.status.err = true ∨ a < 0x20000 ∨
          (Config.legalBufCap s.bufCap ∧ 0x20000 + t.oLen.toNat ≤ a) → t.mem.read a = s.mem.read a
    | .padr _ => t = { s with mem := t.mem, oLen := t.oLen, status := t.status } ∧
        t.status.keyV = s.status.keyV ∧ t.status.ivV = s.status.ivV ∧
        t.status.rkV = s.status.rkV ∧
        ∀ a, t.status.err = true ∨ a < 0x20000 ∨
          (Config.legalBufCap s.bufCap ∧ 0x20000 + t.oLen.toNat ≤ a) → t.mem.read a = s.mem.read a
    | .xform _ _ _ => t = { s with mem := t.mem, oLen := t.oLen, status := t.status } ∧
        t.status.keyV = s.status.keyV ∧ t.status.ivV = s.status.ivV ∧
        t.status.rkV = s.status.rkV ∧
        ∀ a, t.status.err = true ∨ a < 0x20000 ∨
          (Config.legalBufCap s.bufCap ∧ 0x20000 + t.oLen.toNat ≤ a) → t.mem.read a = s.mem.read a
    | .draw _ _ => t = { s with key := t.key, kSize := t.kSize, rkSize := t.rkSize, status := t.status } ∧
        t.status.ivV = s.status.ivV
    | .div _ _ => t = { s with ivr := t.ivr, randCount := t.randCount, status := t.status } ∧
        t.status.keyV = s.status.keyV ∧ t.status.rkV = s.status.rkV
    | .stretch _ _ => t = { s with str := t.str, key := t.key, ivr := t.ivr, kSize := t.kSize,
                                   rkSize := t.rkSize, status := t.status }
    | .saltgen => t = { s with mem := t.mem, sLen := t.sLen, randCount := t.randCount,
                               status := t.status } ∧
        t.status.keyV = s.status.keyV ∧ t.status.ivV = s.status.ivV ∧
        t.status.rkV = s.status.rkV ∧ ∀ a, a < 0x200 ∨ 0x208 ≤ a → t.mem.read a = s.mem.read a
    | .hdr _ => t = { s with hdr := t.hdr, status := t.status } ∧
        t.status.keyV = s.status.keyV ∧ t.status.ivV = s.status.ivV ∧ t.status.rkV = s.status.rkV
    | .clr => t.randCount = s.randCount ∧ ∀ a, t.mem.read a = 0

/-- The invariant holds at reset. That `BUFCAP` is 4096 there is the default of R6, the model's choice of the
parameter (log entry 2). -/
def Obligations.InvariantAtReset : Prop :=
  State.Inv State.reset

/-- Every step keeps the invariant, whatever the host does: memory stays canonical and inside the operand buffers,
`IVNIB` holds digit values, `STATUS` shows a legal outcome, the schedule in `RKS` is that of the `KEY` in place
wherever it can be used (R16, R26, R96), and `OLEN` fits `OBUF`. -/
def Obligations.StepKeepsInvariant : Prop :=
  ∀ s t : State, s.Inv → step s = .next t → t.Inv

/-- R23, R24, R26, as a rule of the whole machine, whatever the host does: `RKV` is set only by a `KEXP` that
completes; it is cleared only by a write of `KEY` or `KSIZE`, by `DRAW`, `STRETCH`, `CLR` or reset; `KEYV` and `IVV` are
set only by a write of their register or a derivation, and cleared only by `CLR` or reset. -/
def Obligations.ValidityFlagsChangeOnlyAsListed : Prop :=
  ∀ (s t : State) (e : HostEvent) (rest : List HostEvent) (ran : Instr → Prop),
    s.pending = e :: rest → step s = .next t →
    (∀ i, ran i ↔ ∃ w, e = .writeWord 0x000 w ∧ decode w = .ok i) →
      (s.status.rkV = false → t.status.rkV = true →
        ran .kexp ∧ t.status.done = true ∧ t.rkSize = s.kSize) ∧
      (s.status.rkV = true → t.status.rkV = false →
        (∃ i b, i < 32 ∧ e = .writeByte (0x040 + i) b) ∨ (∃ v, e = .writeWord 0x008 v) ∨
          (∃ ks q, ran (.draw ks q)) ∨ (∃ ks kdf, ran (.stretch ks kdf)) ∨ ran .clr ∨ e = .reset) ∧
      (s.status.keyV = false → t.status.keyV = true →
        (∃ i b, i < 32 ∧ e = .writeByte (0x040 + i) b) ∨ (∃ ks q, ran (.draw ks q)) ∨
          ∃ ks kdf, ran (.stretch ks kdf)) ∧
      (s.status.ivV = false → t.status.ivV = true →
        (∃ i b, i < 16 ∧ e = .writeByte (0x060 + i) b) ∨ (∃ q rnd, ran (.div q rnd)) ∨
          ∃ ks kdf, ran (.stretch ks kdf)) ∧
      (s.status.keyV = true ∧ t.status.keyV = false ∨ s.status.ivV = true ∧ t.status.ivV = false →
        ran .clr ∨ e = .reset)

/-- R96, R227, as a rule of the whole machine: a command uses a schedule only with the key and size it was expanded
from. In every state that meets the invariant, if one of the four commands that use a schedule completes, its result is
that under the schedule of the `KEY` and `KSIZE` in place. -/
def Obligations.CipherUsesScheduleOfPresentKey : Prop :=
  ∀ s t : State, s.Inv → t.status.done = true →
    (exec .encb s = .next t → ∃ ks, keySizeOfCode s.kSize = some ks ∧
      t.blk = cipher (expandKey ks s.key) (rounds ks) s.blk) ∧
    (exec .decb s = .next t → ∃ ks, keySizeOfCode s.kSize = some ks ∧
      t.blk = invCipher (expandKey ks s.key) (rounds ks) s.blk) ∧
    (∀ md dir, exec (.apply md dir) s = .next t →
      ∃ ks m, keySizeOfCode s.kSize = some ks ∧ md = some m ∧
        t.mem.bytes 0x20000 t.oLen.toNat =
          modeRun m dir (expandKey ks s.key) (rounds ks) s.ivr s.payload) ∧
    (∀ md dir np, exec (.xform md dir np) s = .next t →
      ∃ ks m, keySizeOfCode s.kSize = some ks ∧ md = some m ∧
        transform m dir np (expandKey ks s.key) (rounds ks) s.ivr s.payload =
          .ok (t.mem.bytes 0x20000 t.oLen.toNat))
end

