-- ==== Sys2Proof/Laws/Bytes.lean ====
section
/-! SUPPORT. The small lemmas of byte arrays and byte orders. -/

namespace Sys2Proof.Machine

@[simp] theorem vecOf_getElem (n : Nat) (l : List Byte) (i : Nat) (h : i < n) :
    (vecOf n l)[i] = l.getD i 0 := by
  simp [vecOf]

theorem byteAt_eq_getElem {n : Nat} (v : Vector Byte n) (i : Nat) (h : i < n) : byteAt v i = v[i] := by
  rw [byteAt, List.getD_eq_getElem _ _ (by simpa using h)]; simp

theorem byteAt_of_ge {n : Nat} (v : Vector Byte n) (i : Nat) (h : n ≤ i) : byteAt v i = 0 := by
  rw [byteAt, List.getD_eq_default _ _ (by simpa using h)]

theorem byteAt_vecOf (n : Nat) (l : List Byte) (i : Nat) (h : i < n) :
    byteAt (vecOf n l) i = l.getD i 0 := by
  rw [byteAt_eq_getElem _ _ h, vecOf_getElem]

theorem byteAt_setByte {n : Nat} (v : Vector Byte n) (i j : Nat) (b : Byte) (h : j < n) :
    byteAt (setByte v i b) j = if i = j then b else byteAt v j := by
  rw [byteAt_eq_getElem _ _ h, byteAt_eq_getElem _ _ h, setByte, Vector.getElem_setIfInBounds]

/-- Arrays with equal bytes are equal. -/
theorem eq_of_byteAt {n : Nat} {v w : Vector Byte n} (h : ∀ i, i < n → byteAt v i = byteAt w i) :
    v = w :=
  Vector.ext fun i hi => by rw [← byteAt_eq_getElem v i hi, ← byteAt_eq_getElem w i hi, h i hi]

/-- A block is the block of its own bytes. -/
@[simp] theorem vecOf_toList {n : Nat} (v : Vector Byte n) : vecOf n v.toList = v :=
  Vector.ext fun i hi => by rw [vecOf_getElem]; exact byteAt_eq_getElem v i hi

theorem toList_vecOf {n : Nat} {l : List Byte} (h : l.length = n) : (vecOf n l).toList = l := by
  refine List.ext_getElem (by simp [h]) fun i h1 h2 => ?_
  rw [Vector.getElem_toList, vecOf_getElem, List.getD_eq_getElem _ _ h2]

@[simp] theorem xorBlock_getElem (a b : Block) (i : Nat) (h : i < 16) :
    (xorBlock a b)[i] = a[i] ^^^ b[i] := by
  simp [xorBlock]

theorem xorBlock_self_right (a b : Block) : xorBlock (xorBlock a b) b = a :=
  Vector.ext fun i hi => by simp

@[simp] theorem xorBytes_length (a b : List Byte) : (xorBytes a b).length = min a.length b.length := by
  simp [xorBytes]

theorem xorBytes_self_right (a b : List Byte) (h : a.length ≤ b.length) :
    xorBytes (xorBytes a b) b = a := by
  refine List.ext_getElem (by simp; omega) fun i h1 h2 => ?_
  simp [xorBytes]

end Sys2Proof.Machine
end

