-- ==== Sys2Proof/Laws/Memory.lean ====
section
/-! SUPPORT. The laws of memory: a read after a write, the bytes of a range, and that the canonical form is
kept by the one operation that writes. -/

namespace Sys2Proof.Machine

@[simp] theorem Memory.read_nil (a : Nat) : Memory.read [] a = 0 := rfl

theorem Memory.wf_nil : Memory.wf [] := by decide

theorem Memory.read_eq_zero_of_forall_ne {m : Memory} {a : Nat} (h : ∀ c ∈ m, c.1 ≠ a) :
    m.read a = 0 := by
  induction m with
  | nil => rfl
  | cons c m ih =>
    rw [Memory.read, if_neg (h c (by simp))]
    exact ih fun d hd => h d (by simp [hd])

theorem Memory.read_append (m n : Memory) (a : Nat) (h : ∀ c ∈ n, c.1 ≠ a) :
    Memory.read (m ++ n) a = m.read a := by
  induction m with
  | nil => simpa using Memory.read_eq_zero_of_forall_ne h
  | cons c m ih =>
    simp only [List.cons_append, Memory.read]
    split
    · rfl
    · exact ih

theorem Memory.read_append_right (m n : Memory) (a : Nat) (h : ∀ c ∈ m, c.1 ≠ a) :
    Memory.read (m ++ n) a = n.read a := by
  induction m with
  | nil => rfl
  | cons c m ih =>
    rw [List.cons_append, Memory.read, if_neg (h c (by simp))]
    exact ih fun d hd => h d (by simp [hd])

/-- Leaving out cells at other offsets does not change a read. -/
theorem Memory.read_filter (m : Memory) (p : Host.Cell → Bool) (a : Nat)
    (h : ∀ c ∈ m, c.1 = a → p c = true) : Memory.read (m.filter p) a = m.read a := by
  induction m with
  | nil => rfl
  | cons c m ih =>
    have ih := ih fun d hd => h d (by simp [hd])
    by_cases hc : c.1 = a
    · simp [h c (by simp) hc, Memory.read, hc]
    · rw [List.filter_cons]
      split
      · rw [Memory.read, if_neg hc, ih, Memory.read, if_neg hc]
      · rw [ih, Memory.read, if_neg hc]

/-- A cell of a stored byte string: its offset is in the range, it holds the string's byte, and not zero. -/
theorem mem_cellsOf {a : Nat} {bs : List Byte} {c : Host.Cell} (h : c ∈ cellsOf a bs) :
    a ≤ c.1 ∧ c.1 < a + bs.length ∧ c.2 = bs.getD (c.1 - a) 0 ∧ c.2 ≠ 0 := by
  induction bs generalizing a with
  | nil => simp [cellsOf] at h
  | cons b bs ih =>
    have tail : c ∈ cellsOf (a + 1) bs → a ≤ c.1 ∧ c.1 < a + (b :: bs).length ∧
        c.2 = (b :: bs).getD (c.1 - a) 0 ∧ c.2 ≠ 0 := fun hc => by
      obtain ⟨h1, h2, h3, h4⟩ := ih hc
      refine ⟨by omega, by simp only [List.length_cons]; omega, ?_, h4⟩
      rw [h3, show c.1 - a = (c.1 - (a + 1)) + 1 by omega, List.getD_cons_succ]
    rw [cellsOf] at h
    split at h
    · exact tail h
    · rename_i hb
      rcases List.mem_cons.1 h with rfl | h
      · exact ⟨Nat.le_refl _, by simp, by simp, hb⟩
      · exact tail h

theorem Memory.read_cellsOf (a : Nat) (bs : List Byte) (x : Nat) (hx : a ≤ x) :
    Memory.read (cellsOf a bs) x = bs.getD (x - a) 0 := by
  induction bs generalizing a with
  | nil => rfl
  | cons b bs ih =>
    rw [cellsOf]
    by_cases hxa : x = a
    · subst hxa
      split
      · rename_i hb
        rw [Memory.read_eq_zero_of_forall_ne (fun c hc => by have := mem_cellsOf hc; omega)]
        simp [hb]
      · simp [Memory.read]
    · have e : (b :: bs).getD (x - a) 0 = bs.getD (x - (a + 1)) 0 := by
        rw [show x - a = (x - (a + 1)) + 1 by omega, List.getD_cons_succ]
      split
      · rw [ih (a + 1) (by omega), e]
      · rw [Memory.read, if_neg (Ne.symm hxa), ih (a + 1) (by omega), e]

/-- A READ AFTER A WRITE: the stored byte inside the written range, the old byte outside. -/
theorem Memory.read_write (m : Memory) (a : Nat) (bs : List Byte) (x : Nat) :
    (m.write a bs).read x = if a ≤ x ∧ x < a + bs.length then bs.getD (x - a) 0 else m.read x := by
  have hmid : ∀ c ∈ cellsOf a bs, a ≤ c.1 ∧ c.1 < a + bs.length := fun c hc =>
    ⟨(mem_cellsOf hc).1, (mem_cellsOf hc).2.1⟩
  rw [Memory.write, List.append_assoc]
  split
  · rename_i h
    rw [Memory.read_append_right _ _ _ (fun c hc => by
        have := of_decide_eq_true (List.mem_filter.1 hc).2; omega),
      Memory.read_append _ _ _ (fun c hc => by
        have := of_decide_eq_true (List.mem_filter.1 hc).2; omega),
      Memory.read_cellsOf _ _ _ h.1]
  · rename_i h
    by_cases hlt : x < a
    · rw [Memory.read_append _ _ _ (fun c hc => by
        rcases List.mem_append.1 hc with hc | hc
        · have := hmid c hc; omega
        · have := of_decide_eq_true (List.mem_filter.1 hc).2; omega)]
      exact Memory.read_filter _ _ _ fun c _ hc => by simpa [hc] using hlt
    · rw [Memory.read_append_right _ _ _ (fun c hc => by
          have := of_decide_eq_true (List.mem_filter.1 hc).2; omega),
        Memory.read_append_right _ _ _ (fun c hc => by have := hmid c hc; omega)]
      exact Memory.read_filter _ _ _ fun c _ hc => by
        simp only [decide_eq_true_eq]; omega

theorem Memory.read_write_inside (m : Memory) (a : Nat) (bs : List Byte) (i : Nat)
    (h : i < bs.length) : (m.write a bs).read (a + i) = bs.getD i 0 := by
  rw [Memory.read_write, if_pos ⟨by omega, by omega⟩]; simp

theorem Memory.read_write_outside (m : Memory) (a : Nat) (bs : List Byte) (x : Nat)
    (h : x < a ∨ a + bs.length ≤ x) : (m.write a bs).read x = m.read x := by
  rw [Memory.read_write, if_neg (by omega)]

theorem cellsOf_pairwise (a : Nat) (bs : List Byte) :
    (cellsOf a bs).Pairwise (fun c d => c.1 < d.1) := by
  induction bs generalizing a with
  | nil => simp [cellsOf]
  | cons b bs ih =>
    rw [cellsOf]
    split
    · exact ih _
    · exact List.pairwise_cons.2 ⟨fun c hc => by have := mem_cellsOf hc; simp; omega, ih _⟩

/-- THE CANONICAL FORM IS KEPT by every write. -/
theorem Memory.write_wf {m : Memory} (a : Nat) (bs : List Byte) (h : m.wf) : (m.write a bs).wf := by
  obtain ⟨hp, hz⟩ := h
  refine ⟨?_, fun c hc => ?_⟩
  · rw [Memory.write, List.append_assoc]
    refine List.pairwise_append.2 ⟨hp.filter _, List.pairwise_append.2
      ⟨cellsOf_pairwise a bs, hp.filter _, fun c hc d hd => ?_⟩, fun c hc d hd => ?_⟩
    · have h1 := mem_cellsOf hc
      have h2 := of_decide_eq_true (List.mem_filter.1 hd).2
      omega
    · have h1 := of_decide_eq_true (List.mem_filter.1 hc).2
      rcases List.mem_append.1 hd with hd | hd
      · have := mem_cellsOf hd; omega
      · have := of_decide_eq_true (List.mem_filter.1 hd).2; omega
  · rw [Memory.write, List.append_assoc] at hc
    rcases List.mem_append.1 hc with hc | hc
    · exact hz c (List.mem_filter.1 hc).1
    · rcases List.mem_append.1 hc with hc | hc
      · exact (mem_cellsOf hc).2.2.2
      · exact hz c (List.mem_filter.1 hc).1

/-- The cells after a write: old ones outside the range, or the bytes written. -/
theorem Memory.mem_write {m : Memory} {a : Nat} {bs : List Byte} {c : Host.Cell}
    (h : c ∈ m.write a bs) :
    (c ∈ m ∧ (c.1 < a ∨ a + bs.length ≤ c.1)) ∨
      (a ≤ c.1 ∧ c.1 < a + bs.length ∧ c.2 = bs.getD (c.1 - a) 0) := by
  rw [Memory.write, List.append_assoc] at h
  rcases List.mem_append.1 h with h | h
  · have h := List.mem_filter.1 h
    exact .inl ⟨h.1, .inl (of_decide_eq_true h.2)⟩
  · rcases List.mem_append.1 h with h | h
    · have h := mem_cellsOf h
      exact .inr ⟨h.1, h.2.1, h.2.2.1⟩
    · have h := List.mem_filter.1 h
      exact .inl ⟨h.1, .inr (of_decide_eq_true h.2)⟩

@[simp] theorem Memory.bytes_length (m : Memory) (a n : Nat) : (m.bytes a n).length = n := by
  simp [Memory.bytes]

theorem Memory.bytes_getD (m : Memory) (a n i : Nat) (h : i < n) :
    (m.bytes a n).getD i 0 = m.read (a + i) := by
  rw [List.getD_eq_getElem _ _ (by simpa using h)]
  simp [Memory.bytes]

/-- Equal reads give equal byte strings. -/
theorem Memory.bytes_congr {m m' : Memory} {a n : Nat}
    (h : ∀ i, i < n → m.read (a + i) = m'.read (a + i)) : m.bytes a n = m'.bytes a n :=
  List.map_congr_left fun i hi => h i (List.mem_range.1 hi)

/-- What a write stored is what the range reads as. -/
theorem Memory.bytes_write (m : Memory) (a : Nat) (bs : List Byte) :
    (m.write a bs).bytes a bs.length = bs := by
  refine List.ext_getElem (by simp) fun i h1 h2 => ?_
  have e := Memory.bytes_getD (m.write a bs) a bs.length i h2
  rw [List.getD_eq_getElem _ _ h1, Memory.read_write_inside _ _ _ _ h2,
    List.getD_eq_getElem _ _ h2] at e
  exact e

end Sys2Proof.Machine
end

