-- ==== Sys2Proof/Laws/State.lean ====
section
/-! SUPPORT. One lemma per field per named update, each true by `rfl`: what the update leaves in the field. -/

namespace Sys2Proof.Machine

/-! ### STATUS -/

@[simp] theorem Status.started_busy (st : Status) :
    st.started.busy = true := rfl

@[simp] theorem Status.started_done (st : Status) :
    st.started.done = false := rfl

@[simp] theorem Status.started_err (st : Status) :
    st.started.err = false := rfl

@[simp] theorem Status.started_errKind (st : Status) :
    st.started.errKind = 0 := rfl

@[simp] theorem Status.started_cause (st : Status) :
    st.started.cause = 0 := rfl

@[simp] theorem Status.started_keyV (st : Status) :
    st.started.keyV = st.keyV := rfl

@[simp] theorem Status.started_ivV (st : Status) :
    st.started.ivV = st.ivV := rfl

@[simp] theorem Status.started_rkV (st : Status) :
    st.started.rkV = st.rkV := rfl

@[simp] theorem Status.started_advS (st : Status) :
    st.started.advS = false := rfl

@[simp] theorem Status.started_advL (st : Status) :
    st.started.advL = false := rfl

@[simp] theorem Status.completed_busy (st : Status) :
    st.completed.busy = false := rfl

@[simp] theorem Status.completed_done (st : Status) :
    st.completed.done = true := rfl

@[simp] theorem Status.completed_err (st : Status) :
    st.completed.err = st.err := rfl

@[simp] theorem Status.completed_errKind (st : Status) :
    st.completed.errKind = st.errKind := rfl

@[simp] theorem Status.completed_cause (st : Status) :
    st.completed.cause = st.cause := rfl

@[simp] theorem Status.completed_keyV (st : Status) :
    st.completed.keyV = st.keyV := rfl

@[simp] theorem Status.completed_ivV (st : Status) :
    st.completed.ivV = st.ivV := rfl

@[simp] theorem Status.completed_rkV (st : Status) :
    st.completed.rkV = st.rkV := rfl

@[simp] theorem Status.completed_advS (st : Status) :
    st.completed.advS = st.advS := rfl

@[simp] theorem Status.completed_advL (st : Status) :
    st.completed.advL = st.advL := rfl

@[simp] theorem Status.raised_busy (c : Cause) (st : Status) :
    (st.raised c).busy = false := rfl

@[simp] theorem Status.raised_done (c : Cause) (st : Status) :
    (st.raised c).done = false := rfl

@[simp] theorem Status.raised_err (c : Cause) (st : Status) :
    (st.raised c).err = true := rfl

@[simp] theorem Status.raised_errKind (c : Cause) (st : Status) :
    (st.raised c).errKind = c.kind.number := rfl

@[simp] theorem Status.raised_cause (c : Cause) (st : Status) :
    (st.raised c).cause = c.number := rfl

@[simp] theorem Status.raised_keyV (c : Cause) (st : Status) :
    (st.raised c).keyV = st.keyV := rfl

@[simp] theorem Status.raised_ivV (c : Cause) (st : Status) :
    (st.raised c).ivV = st.ivV := rfl

@[simp] theorem Status.raised_rkV (c : Cause) (st : Status) :
    (st.raised c).rkV = st.rkV := rfl

@[simp] theorem Status.raised_advS (c : Cause) (st : Status) :
    (st.raised c).advS = st.advS := rfl

@[simp] theorem Status.raised_advL (c : Cause) (st : Status) :
    (st.raised c).advL = st.advL := rfl

@[simp] theorem Status.advise_busy (q : Bool) (n w : Nat) (st : Status) :
    (st.advise q n w).busy = st.busy := rfl

@[simp] theorem Status.advise_done (q : Bool) (n w : Nat) (st : Status) :
    (st.advise q n w).done = st.done := rfl

@[simp] theorem Status.advise_err (q : Bool) (n w : Nat) (st : Status) :
    (st.advise q n w).err = st.err := rfl

@[simp] theorem Status.advise_errKind (q : Bool) (n w : Nat) (st : Status) :
    (st.advise q n w).errKind = st.errKind := rfl

@[simp] theorem Status.advise_cause (q : Bool) (n w : Nat) (st : Status) :
    (st.advise q n w).cause = st.cause := rfl

@[simp] theorem Status.advise_keyV (q : Bool) (n w : Nat) (st : Status) :
    (st.advise q n w).keyV = st.keyV := rfl

@[simp] theorem Status.advise_ivV (q : Bool) (n w : Nat) (st : Status) :
    (st.advise q n w).ivV = st.ivV := rfl

@[simp] theorem Status.advise_rkV (q : Bool) (n w : Nat) (st : Status) :
    (st.advise q n w).rkV = st.rkV := rfl

@[simp] theorem Status.advise_advS (q : Bool) (n w : Nat) (st : Status) :
    (st.advise q n w).advS = (!q && decide (n < w)) := rfl

@[simp] theorem Status.advise_advL (q : Bool) (n w : Nat) (st : Status) :
    (st.advise q n w).advL = (!q && decide (w < n)) := rfl

@[simp] theorem Status.keyWritten_busy (st : Status) :
    st.keyWritten.busy = st.busy := rfl

@[simp] theorem Status.keyWritten_done (st : Status) :
    st.keyWritten.done = st.done := rfl

@[simp] theorem Status.keyWritten_err (st : Status) :
    st.keyWritten.err = st.err := rfl

@[simp] theorem Status.keyWritten_errKind (st : Status) :
    st.keyWritten.errKind = st.errKind := rfl

@[simp] theorem Status.keyWritten_cause (st : Status) :
    st.keyWritten.cause = st.cause := rfl

@[simp] theorem Status.keyWritten_keyV (st : Status) :
    st.keyWritten.keyV = true := rfl

@[simp] theorem Status.keyWritten_ivV (st : Status) :
    st.keyWritten.ivV = st.ivV := rfl

@[simp] theorem Status.keyWritten_rkV (st : Status) :
    st.keyWritten.rkV = false := rfl

@[simp] theorem Status.keyWritten_advS (st : Status) :
    st.keyWritten.advS = st.advS := rfl

@[simp] theorem Status.keyWritten_advL (st : Status) :
    st.keyWritten.advL = st.advL := rfl

@[simp] theorem Status.ivWritten_busy (st : Status) :
    st.ivWritten.busy = st.busy := rfl

@[simp] theorem Status.ivWritten_done (st : Status) :
    st.ivWritten.done = st.done := rfl

@[simp] theorem Status.ivWritten_err (st : Status) :
    st.ivWritten.err = st.err := rfl

@[simp] theorem Status.ivWritten_errKind (st : Status) :
    st.ivWritten.errKind = st.errKind := rfl

@[simp] theorem Status.ivWritten_cause (st : Status) :
    st.ivWritten.cause = st.cause := rfl

@[simp] theorem Status.ivWritten_keyV (st : Status) :
    st.ivWritten.keyV = st.keyV := rfl

@[simp] theorem Status.ivWritten_ivV (st : Status) :
    st.ivWritten.ivV = true := rfl

@[simp] theorem Status.ivWritten_rkV (st : Status) :
    st.ivWritten.rkV = st.rkV := rfl

@[simp] theorem Status.ivWritten_advS (st : Status) :
    st.ivWritten.advS = st.advS := rfl

@[simp] theorem Status.ivWritten_advL (st : Status) :
    st.ivWritten.advL = st.advL := rfl

@[simp] theorem Status.scheduleStale_busy (st : Status) :
    st.scheduleStale.busy = st.busy := rfl

@[simp] theorem Status.scheduleStale_done (st : Status) :
    st.scheduleStale.done = st.done := rfl

@[simp] theorem Status.scheduleStale_err (st : Status) :
    st.scheduleStale.err = st.err := rfl

@[simp] theorem Status.scheduleStale_errKind (st : Status) :
    st.scheduleStale.errKind = st.errKind := rfl

@[simp] theorem Status.scheduleStale_cause (st : Status) :
    st.scheduleStale.cause = st.cause := rfl

@[simp] theorem Status.scheduleStale_keyV (st : Status) :
    st.scheduleStale.keyV = st.keyV := rfl

@[simp] theorem Status.scheduleStale_ivV (st : Status) :
    st.scheduleStale.ivV = st.ivV := rfl

@[simp] theorem Status.scheduleStale_rkV (st : Status) :
    st.scheduleStale.rkV = false := rfl

@[simp] theorem Status.scheduleStale_advS (st : Status) :
    st.scheduleStale.advS = st.advS := rfl

@[simp] theorem Status.scheduleStale_advL (st : Status) :
    st.scheduleStale.advL = st.advL := rfl

@[simp] theorem Status.scheduleReady_busy (st : Status) :
    st.scheduleReady.busy = st.busy := rfl

@[simp] theorem Status.scheduleReady_done (st : Status) :
    st.scheduleReady.done = st.done := rfl

@[simp] theorem Status.scheduleReady_err (st : Status) :
    st.scheduleReady.err = st.err := rfl

@[simp] theorem Status.scheduleReady_errKind (st : Status) :
    st.scheduleReady.errKind = st.errKind := rfl

@[simp] theorem Status.scheduleReady_cause (st : Status) :
    st.scheduleReady.cause = st.cause := rfl

@[simp] theorem Status.scheduleReady_keyV (st : Status) :
    st.scheduleReady.keyV = st.keyV := rfl

@[simp] theorem Status.scheduleReady_ivV (st : Status) :
    st.scheduleReady.ivV = st.ivV := rfl

@[simp] theorem Status.scheduleReady_rkV (st : Status) :
    st.scheduleReady.rkV = true := rfl

@[simp] theorem Status.scheduleReady_advS (st : Status) :
    st.scheduleReady.advS = st.advS := rfl

@[simp] theorem Status.scheduleReady_advL (st : Status) :
    st.scheduleReady.advL = st.advL := rfl

/-! ### State -/

@[simp] theorem State.started_status (s : State) :
    s.started.status = s.status.started := rfl

@[simp] theorem State.started_kSize (s : State) :
    s.started.kSize = s.kSize := rfl

@[simp] theorem State.started_rkSize (s : State) :
    s.started.rkSize = s.rkSize := rfl

@[simp] theorem State.started_iter (s : State) :
    s.started.iter = s.iter := rfl

@[simp] theorem State.started_iLen (s : State) :
    s.started.iLen = s.iLen := rfl

@[simp] theorem State.started_oLen (s : State) :
    s.started.oLen = s.oLen := rfl

@[simp] theorem State.started_pwLen (s : State) :
    s.started.pwLen = s.pwLen := rfl

@[simp] theorem State.started_sLen (s : State) :
    s.started.sLen = s.sLen := rfl

@[simp] theorem State.started_kmLen (s : State) :
    s.started.kmLen = s.kmLen := rfl

@[simp] theorem State.started_ivnLen (s : State) :
    s.started.ivnLen = s.ivnLen := rfl

@[simp] theorem State.started_key (s : State) :
    s.started.key = s.key := rfl

@[simp] theorem State.started_ivr (s : State) :
    s.started.ivr = s.ivr := rfl

@[simp] theorem State.started_blk (s : State) :
    s.started.blk = s.blk := rfl

@[simp] theorem State.started_hdr (s : State) :
    s.started.hdr = s.hdr := rfl

@[simp] theorem State.started_str (s : State) :
    s.started.str = s.str := rfl

@[simp] theorem State.started_rks (s : State) :
    s.started.rks = s.rks := rfl

@[simp] theorem State.started_mem (s : State) :
    s.started.mem = s.mem := rfl

@[simp] theorem State.started_bufCap (s : State) :
    s.started.bufCap = s.bufCap := rfl

@[simp] theorem State.started_randCount (s : State) :
    s.started.randCount = s.randCount := rfl

@[simp] theorem State.started_pending (s : State) :
    s.started.pending = s.pending := rfl

@[simp] theorem State.started_readData (s : State) :
    s.started.readData = s.readData := rfl

@[simp] theorem State.started_mustPoll (s : State) :
    s.started.mustPoll = s.mustPoll := rfl

@[simp] theorem State.completed_status (s : State) :
    s.completed.status = s.status.completed := rfl

@[simp] theorem State.completed_kSize (s : State) :
    s.completed.kSize = s.kSize := rfl

@[simp] theorem State.completed_rkSize (s : State) :
    s.completed.rkSize = s.rkSize := rfl

@[simp] theorem State.completed_iter (s : State) :
    s.completed.iter = s.iter := rfl

@[simp] theorem State.completed_iLen (s : State) :
    s.completed.iLen = s.iLen := rfl

@[simp] theorem State.completed_oLen (s : State) :
    s.completed.oLen = s.oLen := rfl

@[simp] theorem State.completed_pwLen (s : State) :
    s.completed.pwLen = s.pwLen := rfl

@[simp] theorem State.completed_sLen (s : State) :
    s.completed.sLen = s.sLen := rfl

@[simp] theorem State.completed_kmLen (s : State) :
    s.completed.kmLen = s.kmLen := rfl

@[simp] theorem State.completed_ivnLen (s : State) :
    s.completed.ivnLen = s.ivnLen := rfl

@[simp] theorem State.completed_key (s : State) :
    s.completed.key = s.key := rfl

@[simp] theorem State.completed_ivr (s : State) :
    s.completed.ivr = s.ivr := rfl

@[simp] theorem State.completed_blk (s : State) :
    s.completed.blk = s.blk := rfl

@[simp] theorem State.completed_hdr (s : State) :
    s.completed.hdr = s.hdr := rfl

@[simp] theorem State.completed_str (s : State) :
    s.completed.str = s.str := rfl

@[simp] theorem State.completed_rks (s : State) :
    s.completed.rks = s.rks := rfl

@[simp] theorem State.completed_mem (s : State) :
    s.completed.mem = s.mem := rfl

@[simp] theorem State.completed_bufCap (s : State) :
    s.completed.bufCap = s.bufCap := rfl

@[simp] theorem State.completed_randCount (s : State) :
    s.completed.randCount = s.randCount := rfl

@[simp] theorem State.completed_pending (s : State) :
    s.completed.pending = s.pending := rfl

@[simp] theorem State.completed_readData (s : State) :
    s.completed.readData = s.readData := rfl

@[simp] theorem State.completed_mustPoll (s : State) :
    s.completed.mustPoll = s.mustPoll := rfl

@[simp] theorem raise_status (c : Cause) (s : State) :
    (raise c s).status = s.status.raised c := rfl

@[simp] theorem raise_kSize (c : Cause) (s : State) :
    (raise c s).kSize = s.kSize := rfl

@[simp] theorem raise_rkSize (c : Cause) (s : State) :
    (raise c s).rkSize = s.rkSize := rfl

@[simp] theorem raise_iter (c : Cause) (s : State) :
    (raise c s).iter = s.iter := rfl

@[simp] theorem raise_iLen (c : Cause) (s : State) :
    (raise c s).iLen = s.iLen := rfl

@[simp] theorem raise_oLen (c : Cause) (s : State) :
    (raise c s).oLen = s.oLen := rfl

@[simp] theorem raise_pwLen (c : Cause) (s : State) :
    (raise c s).pwLen = s.pwLen := rfl

@[simp] theorem raise_sLen (c : Cause) (s : State) :
    (raise c s).sLen = s.sLen := rfl

@[simp] theorem raise_kmLen (c : Cause) (s : State) :
    (raise c s).kmLen = s.kmLen := rfl

@[simp] theorem raise_ivnLen (c : Cause) (s : State) :
    (raise c s).ivnLen = s.ivnLen := rfl

@[simp] theorem raise_key (c : Cause) (s : State) :
    (raise c s).key = s.key := rfl

@[simp] theorem raise_ivr (c : Cause) (s : State) :
    (raise c s).ivr = s.ivr := rfl

@[simp] theorem raise_blk (c : Cause) (s : State) :
    (raise c s).blk = s.blk := rfl

@[simp] theorem raise_hdr (c : Cause) (s : State) :
    (raise c s).hdr = s.hdr := rfl

@[simp] theorem raise_str (c : Cause) (s : State) :
    (raise c s).str = s.str := rfl

@[simp] theorem raise_rks (c : Cause) (s : State) :
    (raise c s).rks = s.rks := rfl

@[simp] theorem raise_mem (c : Cause) (s : State) :
    (raise c s).mem = s.mem := rfl

@[simp] theorem raise_bufCap (c : Cause) (s : State) :
    (raise c s).bufCap = s.bufCap := rfl

@[simp] theorem raise_randCount (c : Cause) (s : State) :
    (raise c s).randCount = s.randCount := rfl

@[simp] theorem raise_pending (c : Cause) (s : State) :
    (raise c s).pending = s.pending := rfl

@[simp] theorem raise_readData (c : Cause) (s : State) :
    (raise c s).readData = s.readData := rfl

@[simp] theorem raise_mustPoll (c : Cause) (s : State) :
    (raise c s).mustPoll = s.mustPoll := rfl

@[simp] theorem State.putKey_status (k : Vector Byte 32) (s : State) :
    (s.putKey k).status = s.status.keyWritten := rfl

@[simp] theorem State.putKey_kSize (k : Vector Byte 32) (s : State) :
    (s.putKey k).kSize = s.kSize := rfl

@[simp] theorem State.putKey_rkSize (k : Vector Byte 32) (s : State) :
    (s.putKey k).rkSize = 3 := rfl

@[simp] theorem State.putKey_iter (k : Vector Byte 32) (s : State) :
    (s.putKey k).iter = s.iter := rfl

@[simp] theorem State.putKey_iLen (k : Vector Byte 32) (s : State) :
    (s.putKey k).iLen = s.iLen := rfl

@[simp] theorem State.putKey_oLen (k : Vector Byte 32) (s : State) :
    (s.putKey k).oLen = s.oLen := rfl

@[simp] theorem State.putKey_pwLen (k : Vector Byte 32) (s : State) :
    (s.putKey k).pwLen = s.pwLen := rfl

@[simp] theorem State.putKey_sLen (k : Vector Byte 32) (s : State) :
    (s.putKey k).sLen = s.sLen := rfl

@[simp] theorem State.putKey_kmLen (k : Vector Byte 32) (s : State) :
    (s.putKey k).kmLen = s.kmLen := rfl

@[simp] theorem State.putKey_ivnLen (k : Vector Byte 32) (s : State) :
    (s.putKey k).ivnLen = s.ivnLen := rfl

@[simp] theorem State.putKey_key (k : Vector Byte 32) (s : State) :
    (s.putKey k).key = k := rfl

@[simp] theorem State.putKey_ivr (k : Vector Byte 32) (s : State) :
    (s.putKey k).ivr = s.ivr := rfl

@[simp] theorem State.putKey_blk (k : Vector Byte 32) (s : State) :
    (s.putKey k).blk = s.blk := rfl

@[simp] theorem State.putKey_hdr (k : Vector Byte 32) (s : State) :
    (s.putKey k).hdr = s.hdr := rfl

@[simp] theorem State.putKey_str (k : Vector Byte 32) (s : State) :
    (s.putKey k).str = s.str := rfl

@[simp] theorem State.putKey_rks (k : Vector Byte 32) (s : State) :
    (s.putKey k).rks = s.rks := rfl

@[simp] theorem State.putKey_mem (k : Vector Byte 32) (s : State) :
    (s.putKey k).mem = s.mem := rfl

@[simp] theorem State.putKey_bufCap (k : Vector Byte 32) (s : State) :
    (s.putKey k).bufCap = s.bufCap := rfl

@[simp] theorem State.putKey_randCount (k : Vector Byte 32) (s : State) :
    (s.putKey k).randCount = s.randCount := rfl

@[simp] theorem State.putKey_pending (k : Vector Byte 32) (s : State) :
    (s.putKey k).pending = s.pending := rfl

@[simp] theorem State.putKey_readData (k : Vector Byte 32) (s : State) :
    (s.putKey k).readData = s.readData := rfl

@[simp] theorem State.putKey_mustPoll (k : Vector Byte 32) (s : State) :
    (s.putKey k).mustPoll = s.mustPoll := rfl

@[simp] theorem State.putIvr_status (v : Block) (s : State) :
    (s.putIvr v).status = s.status.ivWritten := rfl

@[simp] theorem State.putIvr_kSize (v : Block) (s : State) :
    (s.putIvr v).kSize = s.kSize := rfl

@[simp] theorem State.putIvr_rkSize (v : Block) (s : State) :
    (s.putIvr v).rkSize = s.rkSize := rfl

@[simp] theorem State.putIvr_iter (v : Block) (s : State) :
    (s.putIvr v).iter = s.iter := rfl

@[simp] theorem State.putIvr_iLen (v : Block) (s : State) :
    (s.putIvr v).iLen = s.iLen := rfl

@[simp] theorem State.putIvr_oLen (v : Block) (s : State) :
    (s.putIvr v).oLen = s.oLen := rfl

@[simp] theorem State.putIvr_pwLen (v : Block) (s : State) :
    (s.putIvr v).pwLen = s.pwLen := rfl

@[simp] theorem State.putIvr_sLen (v : Block) (s : State) :
    (s.putIvr v).sLen = s.sLen := rfl

@[simp] theorem State.putIvr_kmLen (v : Block) (s : State) :
    (s.putIvr v).kmLen = s.kmLen := rfl

@[simp] theorem State.putIvr_ivnLen (v : Block) (s : State) :
    (s.putIvr v).ivnLen = s.ivnLen := rfl

@[simp] theorem State.putIvr_key (v : Block) (s : State) :
    (s.putIvr v).key = s.key := rfl

@[simp] theorem State.putIvr_ivr (v : Block) (s : State) :
    (s.putIvr v).ivr = v := rfl

@[simp] theorem State.putIvr_blk (v : Block) (s : State) :
    (s.putIvr v).blk = s.blk := rfl

@[simp] theorem State.putIvr_hdr (v : Block) (s : State) :
    (s.putIvr v).hdr = s.hdr := rfl

@[simp] theorem State.putIvr_str (v : Block) (s : State) :
    (s.putIvr v).str = s.str := rfl

@[simp] theorem State.putIvr_rks (v : Block) (s : State) :
    (s.putIvr v).rks = s.rks := rfl

@[simp] theorem State.putIvr_mem (v : Block) (s : State) :
    (s.putIvr v).mem = s.mem := rfl

@[simp] theorem State.putIvr_bufCap (v : Block) (s : State) :
    (s.putIvr v).bufCap = s.bufCap := rfl

@[simp] theorem State.putIvr_randCount (v : Block) (s : State) :
    (s.putIvr v).randCount = s.randCount := rfl

@[simp] theorem State.putIvr_pending (v : Block) (s : State) :
    (s.putIvr v).pending = s.pending := rfl

@[simp] theorem State.putIvr_readData (v : Block) (s : State) :
    (s.putIvr v).readData = s.readData := rfl

@[simp] theorem State.putIvr_mustPoll (v : Block) (s : State) :
    (s.putIvr v).mustPoll = s.mustPoll := rfl

@[simp] theorem State.putKSize_status (c : BitVec 2) (s : State) :
    (s.putKSize c).status = s.status.scheduleStale := rfl

@[simp] theorem State.putKSize_kSize (c : BitVec 2) (s : State) :
    (s.putKSize c).kSize = c := rfl

@[simp] theorem State.putKSize_rkSize (c : BitVec 2) (s : State) :
    (s.putKSize c).rkSize = 3 := rfl

@[simp] theorem State.putKSize_iter (c : BitVec 2) (s : State) :
    (s.putKSize c).iter = s.iter := rfl

@[simp] theorem State.putKSize_iLen (c : BitVec 2) (s : State) :
    (s.putKSize c).iLen = s.iLen := rfl

@[simp] theorem State.putKSize_oLen (c : BitVec 2) (s : State) :
    (s.putKSize c).oLen = s.oLen := rfl

@[simp] theorem State.putKSize_pwLen (c : BitVec 2) (s : State) :
    (s.putKSize c).pwLen = s.pwLen := rfl

@[simp] theorem State.putKSize_sLen (c : BitVec 2) (s : State) :
    (s.putKSize c).sLen = s.sLen := rfl

@[simp] theorem State.putKSize_kmLen (c : BitVec 2) (s : State) :
    (s.putKSize c).kmLen = s.kmLen := rfl

@[simp] theorem State.putKSize_ivnLen (c : BitVec 2) (s : State) :
    (s.putKSize c).ivnLen = s.ivnLen := rfl

@[simp] theorem State.putKSize_key (c : BitVec 2) (s : State) :
    (s.putKSize c).key = s.key := rfl

@[simp] theorem State.putKSize_ivr (c : BitVec 2) (s : State) :
    (s.putKSize c).ivr = s.ivr := rfl

@[simp] theorem State.putKSize_blk (c : BitVec 2) (s : State) :
    (s.putKSize c).blk = s.blk := rfl

@[simp] theorem State.putKSize_hdr (c : BitVec 2) (s : State) :
    (s.putKSize c).hdr = s.hdr := rfl

@[simp] theorem State.putKSize_str (c : BitVec 2) (s : State) :
    (s.putKSize c).str = s.str := rfl

@[simp] theorem State.putKSize_rks (c : BitVec 2) (s : State) :
    (s.putKSize c).rks = s.rks := rfl

@[simp] theorem State.putKSize_mem (c : BitVec 2) (s : State) :
    (s.putKSize c).mem = s.mem := rfl

@[simp] theorem State.putKSize_bufCap (c : BitVec 2) (s : State) :
    (s.putKSize c).bufCap = s.bufCap := rfl

@[simp] theorem State.putKSize_randCount (c : BitVec 2) (s : State) :
    (s.putKSize c).randCount = s.randCount := rfl

@[simp] theorem State.putKSize_pending (c : BitVec 2) (s : State) :
    (s.putKSize c).pending = s.pending := rfl

@[simp] theorem State.putKSize_readData (c : BitVec 2) (s : State) :
    (s.putKSize c).readData = s.readData := rfl

@[simp] theorem State.putKSize_mustPoll (c : BitVec 2) (s : State) :
    (s.putKSize c).mustPoll = s.mustPoll := rfl

@[simp] theorem State.putSchedule_status (r : Vector Byte 240) (s : State) :
    (s.putSchedule r).status = s.status.scheduleReady := rfl

@[simp] theorem State.putSchedule_kSize (r : Vector Byte 240) (s : State) :
    (s.putSchedule r).kSize = s.kSize := rfl

@[simp] theorem State.putSchedule_rkSize (r : Vector Byte 240) (s : State) :
    (s.putSchedule r).rkSize = s.kSize := rfl

@[simp] theorem State.putSchedule_iter (r : Vector Byte 240) (s : State) :
    (s.putSchedule r).iter = s.iter := rfl

@[simp] theorem State.putSchedule_iLen (r : Vector Byte 240) (s : State) :
    (s.putSchedule r).iLen = s.iLen := rfl

@[simp] theorem State.putSchedule_oLen (r : Vector Byte 240) (s : State) :
    (s.putSchedule r).oLen = s.oLen := rfl

@[simp] theorem State.putSchedule_pwLen (r : Vector Byte 240) (s : State) :
    (s.putSchedule r).pwLen = s.pwLen := rfl

@[simp] theorem State.putSchedule_sLen (r : Vector Byte 240) (s : State) :
    (s.putSchedule r).sLen = s.sLen := rfl

@[simp] theorem State.putSchedule_kmLen (r : Vector Byte 240) (s : State) :
    (s.putSchedule r).kmLen = s.kmLen := rfl

@[simp] theorem State.putSchedule_ivnLen (r : Vector Byte 240) (s : State) :
    (s.putSchedule r).ivnLen = s.ivnLen := rfl

@[simp] theorem State.putSchedule_key (r : Vector Byte 240) (s : State) :
    (s.putSchedule r).key = s.key := rfl

@[simp] theorem State.putSchedule_ivr (r : Vector Byte 240) (s : State) :
    (s.putSchedule r).ivr = s.ivr := rfl

@[simp] theorem State.putSchedule_blk (r : Vector Byte 240) (s : State) :
    (s.putSchedule r).blk = s.blk := rfl

@[simp] theorem State.putSchedule_hdr (r : Vector Byte 240) (s : State) :
    (s.putSchedule r).hdr = s.hdr := rfl

@[simp] theorem State.putSchedule_str (r : Vector Byte 240) (s : State) :
    (s.putSchedule r).str = s.str := rfl

@[simp] theorem State.putSchedule_rks (r : Vector Byte 240) (s : State) :
    (s.putSchedule r).rks = r := rfl

@[simp] theorem State.putSchedule_mem (r : Vector Byte 240) (s : State) :
    (s.putSchedule r).mem = s.mem := rfl

@[simp] theorem State.putSchedule_bufCap (r : Vector Byte 240) (s : State) :
    (s.putSchedule r).bufCap = s.bufCap := rfl

@[simp] theorem State.putSchedule_randCount (r : Vector Byte 240) (s : State) :
    (s.putSchedule r).randCount = s.randCount := rfl

@[simp] theorem State.putSchedule_pending (r : Vector Byte 240) (s : State) :
    (s.putSchedule r).pending = s.pending := rfl

@[simp] theorem State.putSchedule_readData (r : Vector Byte 240) (s : State) :
    (s.putSchedule r).readData = s.readData := rfl

@[simp] theorem State.putSchedule_mustPoll (r : Vector Byte 240) (s : State) :
    (s.putSchedule r).mustPoll = s.mustPoll := rfl

@[simp] theorem State.putOutput_status (o : List Byte) (s : State) :
    (s.putOutput o).status = s.status := rfl

@[simp] theorem State.putOutput_kSize (o : List Byte) (s : State) :
    (s.putOutput o).kSize = s.kSize := rfl

@[simp] theorem State.putOutput_rkSize (o : List Byte) (s : State) :
    (s.putOutput o).rkSize = s.rkSize := rfl

@[simp] theorem State.putOutput_iter (o : List Byte) (s : State) :
    (s.putOutput o).iter = s.iter := rfl

@[simp] theorem State.putOutput_iLen (o : List Byte) (s : State) :
    (s.putOutput o).iLen = s.iLen := rfl

@[simp] theorem State.putOutput_oLen (o : List Byte) (s : State) :
    (s.putOutput o).oLen = BitVec.ofNat 32 o.length := rfl

@[simp] theorem State.putOutput_pwLen (o : List Byte) (s : State) :
    (s.putOutput o).pwLen = s.pwLen := rfl

@[simp] theorem State.putOutput_sLen (o : List Byte) (s : State) :
    (s.putOutput o).sLen = s.sLen := rfl

@[simp] theorem State.putOutput_kmLen (o : List Byte) (s : State) :
    (s.putOutput o).kmLen = s.kmLen := rfl

@[simp] theorem State.putOutput_ivnLen (o : List Byte) (s : State) :
    (s.putOutput o).ivnLen = s.ivnLen := rfl

@[simp] theorem State.putOutput_key (o : List Byte) (s : State) :
    (s.putOutput o).key = s.key := rfl

@[simp] theorem State.putOutput_ivr (o : List Byte) (s : State) :
    (s.putOutput o).ivr = s.ivr := rfl

@[simp] theorem State.putOutput_blk (o : List Byte) (s : State) :
    (s.putOutput o).blk = s.blk := rfl

@[simp] theorem State.putOutput_hdr (o : List Byte) (s : State) :
    (s.putOutput o).hdr = s.hdr := rfl

@[simp] theorem State.putOutput_str (o : List Byte) (s : State) :
    (s.putOutput o).str = s.str := rfl

@[simp] theorem State.putOutput_rks (o : List Byte) (s : State) :
    (s.putOutput o).rks = s.rks := rfl

@[simp] theorem State.putOutput_mem (o : List Byte) (s : State) :
    (s.putOutput o).mem = s.mem.write obufBase o := rfl

@[simp] theorem State.putOutput_bufCap (o : List Byte) (s : State) :
    (s.putOutput o).bufCap = s.bufCap := rfl

@[simp] theorem State.putOutput_randCount (o : List Byte) (s : State) :
    (s.putOutput o).randCount = s.randCount := rfl

@[simp] theorem State.putOutput_pending (o : List Byte) (s : State) :
    (s.putOutput o).pending = s.pending := rfl

@[simp] theorem State.putOutput_readData (o : List Byte) (s : State) :
    (s.putOutput o).readData = s.readData := rfl

@[simp] theorem State.putOutput_mustPoll (o : List Byte) (s : State) :
    (s.putOutput o).mustPoll = s.mustPoll := rfl

@[simp] theorem State.drawn_status (n : Nat) (s : State) :
    (s.drawn n).status = s.status := rfl

@[simp] theorem State.drawn_kSize (n : Nat) (s : State) :
    (s.drawn n).kSize = s.kSize := rfl

@[simp] theorem State.drawn_rkSize (n : Nat) (s : State) :
    (s.drawn n).rkSize = s.rkSize := rfl

@[simp] theorem State.drawn_iter (n : Nat) (s : State) :
    (s.drawn n).iter = s.iter := rfl

@[simp] theorem State.drawn_iLen (n : Nat) (s : State) :
    (s.drawn n).iLen = s.iLen := rfl

@[simp] theorem State.drawn_oLen (n : Nat) (s : State) :
    (s.drawn n).oLen = s.oLen := rfl

@[simp] theorem State.drawn_pwLen (n : Nat) (s : State) :
    (s.drawn n).pwLen = s.pwLen := rfl

@[simp] theorem State.drawn_sLen (n : Nat) (s : State) :
    (s.drawn n).sLen = s.sLen := rfl

@[simp] theorem State.drawn_kmLen (n : Nat) (s : State) :
    (s.drawn n).kmLen = s.kmLen := rfl

@[simp] theorem State.drawn_ivnLen (n : Nat) (s : State) :
    (s.drawn n).ivnLen = s.ivnLen := rfl

@[simp] theorem State.drawn_key (n : Nat) (s : State) :
    (s.drawn n).key = s.key := rfl

@[simp] theorem State.drawn_ivr (n : Nat) (s : State) :
    (s.drawn n).ivr = s.ivr := rfl

@[simp] theorem State.drawn_blk (n : Nat) (s : State) :
    (s.drawn n).blk = s.blk := rfl

@[simp] theorem State.drawn_hdr (n : Nat) (s : State) :
    (s.drawn n).hdr = s.hdr := rfl

@[simp] theorem State.drawn_str (n : Nat) (s : State) :
    (s.drawn n).str = s.str := rfl

@[simp] theorem State.drawn_rks (n : Nat) (s : State) :
    (s.drawn n).rks = s.rks := rfl

@[simp] theorem State.drawn_mem (n : Nat) (s : State) :
    (s.drawn n).mem = s.mem := rfl

@[simp] theorem State.drawn_bufCap (n : Nat) (s : State) :
    (s.drawn n).bufCap = s.bufCap := rfl

@[simp] theorem State.drawn_randCount (n : Nat) (s : State) :
    (s.drawn n).randCount = s.randCount + n := rfl

@[simp] theorem State.drawn_pending (n : Nat) (s : State) :
    (s.drawn n).pending = s.pending := rfl

@[simp] theorem State.drawn_readData (n : Nat) (s : State) :
    (s.drawn n).readData = s.readData := rfl

@[simp] theorem State.drawn_mustPoll (n : Nat) (s : State) :
    (s.drawn n).mustPoll = s.mustPoll := rfl

@[simp] theorem State.cleared_status (s : State) :
    s.cleared.status = State.reset.status := rfl

@[simp] theorem State.cleared_kSize (s : State) :
    s.cleared.kSize = State.reset.kSize := rfl

@[simp] theorem State.cleared_rkSize (s : State) :
    s.cleared.rkSize = State.reset.rkSize := rfl

@[simp] theorem State.cleared_iter (s : State) :
    s.cleared.iter = State.reset.iter := rfl

@[simp] theorem State.cleared_iLen (s : State) :
    s.cleared.iLen = State.reset.iLen := rfl

@[simp] theorem State.cleared_oLen (s : State) :
    s.cleared.oLen = State.reset.oLen := rfl

@[simp] theorem State.cleared_pwLen (s : State) :
    s.cleared.pwLen = State.reset.pwLen := rfl

@[simp] theorem State.cleared_sLen (s : State) :
    s.cleared.sLen = State.reset.sLen := rfl

@[simp] theorem State.cleared_kmLen (s : State) :
    s.cleared.kmLen = State.reset.kmLen := rfl

@[simp] theorem State.cleared_ivnLen (s : State) :
    s.cleared.ivnLen = State.reset.ivnLen := rfl

@[simp] theorem State.cleared_key (s : State) :
    s.cleared.key = State.reset.key := rfl

@[simp] theorem State.cleared_ivr (s : State) :
    s.cleared.ivr = State.reset.ivr := rfl

@[simp] theorem State.cleared_blk (s : State) :
    s.cleared.blk = State.reset.blk := rfl

@[simp] theorem State.cleared_hdr (s : State) :
    s.cleared.hdr = State.reset.hdr := rfl

@[simp] theorem State.cleared_str (s : State) :
    s.cleared.str = State.reset.str := rfl

@[simp] theorem State.cleared_rks (s : State) :
    s.cleared.rks = State.reset.rks := rfl

@[simp] theorem State.cleared_mem (s : State) :
    s.cleared.mem = State.reset.mem := rfl

@[simp] theorem State.cleared_bufCap (s : State) :
    s.cleared.bufCap = s.bufCap := rfl

@[simp] theorem State.cleared_randCount (s : State) :
    s.cleared.randCount = s.randCount := rfl

@[simp] theorem State.cleared_pending (s : State) :
    s.cleared.pending = s.pending := rfl

@[simp] theorem State.cleared_readData (s : State) :
    s.cleared.readData = s.readData := rfl

@[simp] theorem State.cleared_mustPoll (s : State) :
    s.cleared.mustPoll = s.mustPoll := rfl

/-! ### `cmdWritten` -/

@[simp] theorem State.cmdWritten_status (s : State) :
    s.cmdWritten.status = s.status := rfl

@[simp] theorem State.cmdWritten_kSize (s : State) :
    s.cmdWritten.kSize = s.kSize := rfl

@[simp] theorem State.cmdWritten_rkSize (s : State) :
    s.cmdWritten.rkSize = s.rkSize := rfl

@[simp] theorem State.cmdWritten_iter (s : State) :
    s.cmdWritten.iter = s.iter := rfl

@[simp] theorem State.cmdWritten_iLen (s : State) :
    s.cmdWritten.iLen = s.iLen := rfl

@[simp] theorem State.cmdWritten_oLen (s : State) :
    s.cmdWritten.oLen = s.oLen := rfl

@[simp] theorem State.cmdWritten_pwLen (s : State) :
    s.cmdWritten.pwLen = s.pwLen := rfl

@[simp] theorem State.cmdWritten_sLen (s : State) :
    s.cmdWritten.sLen = s.sLen := rfl

@[simp] theorem State.cmdWritten_kmLen (s : State) :
    s.cmdWritten.kmLen = s.kmLen := rfl

@[simp] theorem State.cmdWritten_ivnLen (s : State) :
    s.cmdWritten.ivnLen = s.ivnLen := rfl

@[simp] theorem State.cmdWritten_key (s : State) :
    s.cmdWritten.key = s.key := rfl

@[simp] theorem State.cmdWritten_ivr (s : State) :
    s.cmdWritten.ivr = s.ivr := rfl

@[simp] theorem State.cmdWritten_blk (s : State) :
    s.cmdWritten.blk = s.blk := rfl

@[simp] theorem State.cmdWritten_hdr (s : State) :
    s.cmdWritten.hdr = s.hdr := rfl

@[simp] theorem State.cmdWritten_str (s : State) :
    s.cmdWritten.str = s.str := rfl

@[simp] theorem State.cmdWritten_rks (s : State) :
    s.cmdWritten.rks = s.rks := rfl

@[simp] theorem State.cmdWritten_mem (s : State) :
    s.cmdWritten.mem = s.mem := rfl

@[simp] theorem State.cmdWritten_bufCap (s : State) :
    s.cmdWritten.bufCap = s.bufCap := rfl

@[simp] theorem State.cmdWritten_randCount (s : State) :
    s.cmdWritten.randCount = s.randCount := rfl

@[simp] theorem State.cmdWritten_pending (s : State) :
    s.cmdWritten.pending = s.pending := rfl

@[simp] theorem State.cmdWritten_readData (s : State) :
    s.cmdWritten.readData = s.readData := rfl

@[simp] theorem State.cmdWritten_mustPoll (s : State) :
    s.cmdWritten.mustPoll = true := rfl

/-! ### `statusRead` -/

@[simp] theorem State.statusRead_status (s : State) :
    s.statusRead.status = s.status := rfl

@[simp] theorem State.statusRead_kSize (s : State) :
    s.statusRead.kSize = s.kSize := rfl

@[simp] theorem State.statusRead_rkSize (s : State) :
    s.statusRead.rkSize = s.rkSize := rfl

@[simp] theorem State.statusRead_iter (s : State) :
    s.statusRead.iter = s.iter := rfl

@[simp] theorem State.statusRead_iLen (s : State) :
    s.statusRead.iLen = s.iLen := rfl

@[simp] theorem State.statusRead_oLen (s : State) :
    s.statusRead.oLen = s.oLen := rfl

@[simp] theorem State.statusRead_pwLen (s : State) :
    s.statusRead.pwLen = s.pwLen := rfl

@[simp] theorem State.statusRead_sLen (s : State) :
    s.statusRead.sLen = s.sLen := rfl

@[simp] theorem State.statusRead_kmLen (s : State) :
    s.statusRead.kmLen = s.kmLen := rfl

@[simp] theorem State.statusRead_ivnLen (s : State) :
    s.statusRead.ivnLen = s.ivnLen := rfl

@[simp] theorem State.statusRead_key (s : State) :
    s.statusRead.key = s.key := rfl

@[simp] theorem State.statusRead_ivr (s : State) :
    s.statusRead.ivr = s.ivr := rfl

@[simp] theorem State.statusRead_blk (s : State) :
    s.statusRead.blk = s.blk := rfl

@[simp] theorem State.statusRead_hdr (s : State) :
    s.statusRead.hdr = s.hdr := rfl

@[simp] theorem State.statusRead_str (s : State) :
    s.statusRead.str = s.str := rfl

@[simp] theorem State.statusRead_rks (s : State) :
    s.statusRead.rks = s.rks := rfl

@[simp] theorem State.statusRead_mem (s : State) :
    s.statusRead.mem = s.mem := rfl

@[simp] theorem State.statusRead_bufCap (s : State) :
    s.statusRead.bufCap = s.bufCap := rfl

@[simp] theorem State.statusRead_randCount (s : State) :
    s.statusRead.randCount = s.randCount := rfl

@[simp] theorem State.statusRead_pending (s : State) :
    s.statusRead.pending = s.pending := rfl

@[simp] theorem State.statusRead_readData (s : State) :
    s.statusRead.readData = s.readData := rfl

@[simp] theorem State.statusRead_mustPoll (s : State) :
    s.statusRead.mustPoll = (s.mustPoll && s.status.busy) := rfl

end Sys2Proof.Machine
end

