-- ==== Sys2Proof/Laws/Ops.lean ====
section
/-! SUPPORT. What the shared operations can do, said once each: the shell of a command, the checks the mode
commands share, a step. Proofs cite these instead of unfolding. -/

namespace Sys2Proof.Machine

/-! ### The shell of a command -/

theorem runCommand_ok {body : State → Except Cause State} {s t : State} (h : body s.started = .ok t) :
    runCommand body s = .next t.completed := by
  rw [runCommand, h]

theorem runCommand_error {body : State → Except Cause State} {s : State} {c : Cause}
    (h : body s.started = .error c) : runCommand body s = .next (raise c s.started) := by
  rw [runCommand, h]

/-- A command answers a next state, always: its completion or its error entry. -/
theorem runCommand_cases (body : State → Except Cause State) (s : State) :
    (∃ t, body s.started = .ok t ∧ runCommand body s = .next t.completed) ∨
      ∃ c, body s.started = .error c ∧ runCommand body s = .next (raise c s.started) := by
  cases h : body s.started with
  | ok t => exact .inl ⟨t, rfl, runCommand_ok h⟩
  | error c => exact .inr ⟨c, rfl, runCommand_error h⟩

/-- What a command that answers `t` did. -/
theorem runCommand_next {body : State → Except Cause State} {s t : State}
    (h : runCommand body s = .next t) :
    (∃ u, body s.started = .ok u ∧ t = u.completed) ∨
      ∃ c, body s.started = .error c ∧ t = raise c s.started := by
  rcases runCommand_cases body s with ⟨u, hb, hr⟩ | ⟨c, hb, hr⟩
  · exact .inl ⟨u, hb, Host.Outcome.next.inj (h.symm.trans hr)⟩
  · exact .inr ⟨c, hb, Host.Outcome.next.inj (h.symm.trans hr)⟩

/-- Raising after the start leaves what raising at once does: the start's clearing is overwritten or kept
cleared. -/
theorem raise_started (c : Cause) (s : State) :
    raise c s.started = { s with status := (s.status.started).raised c } := rfl

/-- The body of each command: `exec` is the shell around it. -/
def bodyOf (i : Instr) (s : State) : Except Cause State :=
  match i with
  | .kexp => kexpBody s
  | .encb => encbBody s
  | .decb => decbBody s
  | .apply md dir => applyBody md dir s
  | .pada np => padaBody np s
  | .padr np => padrBody np s
  | .xform md dir np => xformBody md dir np s
  | .draw ks q => drawBody ks q s
  | .div q rnd => divBody q rnd s
  | .stretch ks kdf => stretchBody ks kdf s
  | .saltgen => saltgenBody s
  | .hdr fr => hdrBody fr s
  | .clr => clrBody s

theorem exec_eq (i : Instr) (s : State) : exec i s = runCommand (bodyOf i) s := by
  cases i <;> rfl

/-! ### Operands -/

@[simp] theorem started_selectedSize (s : State) : s.started.selectedSize = s.selectedSize := rfl

@[simp] theorem started_scheduleRounds (s : State) : s.started.scheduleRounds = s.scheduleRounds := rfl

@[simp] theorem started_payload (s : State) : s.started.payload = s.payload := rfl

@[simp] theorem started_payloadCause (s : State) : s.started.payloadCause = s.payloadCause := rfl

@[simp] theorem started_wholeBlocksCause (s : State) :
    s.started.wholeBlocksCause = s.wholeBlocksCause := rfl

@[simp] theorem started_modeChecks (md : Option Mode) (s : State) :
    modeChecks md s.started = modeChecks md s := rfl

@[simp] theorem payload_length (s : State) : s.payload.length = s.iLen.toNat := by
  simp [State.payload]

theorem payloadCause_eq_none {s : State} :
    s.payloadCause = none ↔ s.iLen.toNat ≤ s.bufCap ∧ s.iLen.toNat ≠ 0 := by
  unfold State.payloadCause
  split
  · simp; omega
  · split
    · simp; omega
    · simp; omega

theorem wholeBlocksCause_eq_none {s : State} :
    s.wholeBlocksCause = none ↔ 16 ≤ s.iLen.toNat ∧ s.iLen.toNat % 16 = 0 := by
  unfold State.wholeBlocksCause
  split
  · simp; omega
  · split
    · simp; omega
    · simp; omega

theorem scheduleRounds_eq_some {s : State} {nr : Nat} :
    s.scheduleRounds = some nr ↔
      s.status.rkV = true ∧ ∃ ks, keySizeOfCode s.rkSize = some ks ∧ rounds ks = nr := by
  unfold State.scheduleRounds
  cases s.status.rkV <;> simp

/-- What passes the shared checks of `APPLY` and `XFORM`. -/
theorem modeChecks_eq_ok {md : Option Mode} {s : State} {m : Mode} {nr : Nat} :
    modeChecks md s = .ok (m, nr) ↔
      md = some m ∧ s.scheduleRounds = some nr ∧ (m = .ecb ∨ s.status.ivV = true) ∧
        s.iLen.toNat ≤ s.bufCap ∧ s.iLen.toNat ≠ 0 := by
  unfold modeChecks
  cases md with
  | none => simp
  | some m' =>
    cases hr : s.scheduleRounds with
    | none => simp
    | some nr' =>
      simp only
      split
      · rename_i h
        simp only [reduceCtorEq, false_iff]
        rintro ⟨h1, h2, h3, -⟩
        cases h1
        rcases h3 with h3 | h3
        · exact h.1 h3
        · rw [h.2] at h3; cases h3
      · rename_i h
        rw [not_and, Bool.not_eq_false] at h
        cases hp : s.payloadCause with
        | some c =>
          simp only [reduceCtorEq, false_iff]
          rintro ⟨-, -, -, h4⟩
          rw [payloadCause_eq_none.2 h4] at hp
          cases hp
        | none =>
          have hp := payloadCause_eq_none.1 hp
          simp only [Except.ok.injEq, Prod.mk.injEq, Option.some.injEq]
          constructor
          · rintro ⟨rfl, rfl⟩
            exact ⟨rfl, rfl, or_iff_not_imp_left.2 h, hp⟩
          · rintro ⟨rfl, rfl, -⟩
            exact ⟨rfl, rfl⟩

/-! ### A step -/

theorem step_idle {s : State} (h : s.pending = []) : step s = .next s := by
  rw [step, h]

theorem step_event {s : State} {e : HostEvent} {rest : List HostEvent} (h : s.pending = e :: rest) :
    step s = hostEvent e { s with pending := rest } := by
  rw [step, h]

theorem hostEvent_of_ready (e : HostEvent) {s : State} (hb : s.status.busy = false)
    (hp : s.mustPoll = false) : hostEvent e s = performEvent e s := by
  simp [hostEvent, hb, hp]

theorem hostEvent_of_allowed {e : HostEvent} (s : State) (h : allowedWhileBusy e = true) :
    hostEvent e s = performEvent e s := by
  simp [hostEvent, h]

/-- While `BUSY = 1` an event R52 does not allow is refused. -/
theorem hostEvent_of_busy {e : HostEvent} {s : State} (h : allowedWhileBusy e = false)
    (hb : s.status.busy = true) : hostEvent e s = .refused .accessWhileBusy := by
  simp [hostEvent, h, hb]

/-- In the window of R226 an event it does not allow is refused. -/
theorem hostEvent_of_mustPoll {e : HostEvent} {s : State} (h : allowedWhileBusy e = false)
    (hb : s.status.busy = false) (hp : s.mustPoll = true) :
    hostEvent e s = .refused .accessBeforePoll := by
  simp [hostEvent, h, hb, hp]

/-- Where the host need not wait, a read of `STATUS` closes nothing. -/
theorem statusRead_of_not_mustPoll {s : State} (h : s.mustPoll = false) : s.statusRead = s := by
  cases s
  simp_all [State.statusRead]

theorem observed_of_not_mustPoll (off : Nat) {s : State} (h : s.mustPoll = false) :
    s.observed off = s := by
  unfold State.observed
  split
  · exact statusRead_of_not_mustPoll h
  · rfl

/-- A step of a ready core performs the host's next event. -/
theorem step_performs {s : State} {e : HostEvent} {rest : List HostEvent} (h : s.pending = e :: rest)
    (hb : s.status.busy = false) (hp : s.mustPoll = false) :
    step s = performEvent e { s with pending := rest } := by
  rw [step_event h]
  exact hostEvent_of_ready e (s := { s with pending := rest }) hb hp

/-- What an event that answers `t` was: performed, on a ready core or as R52 and R226 allow. -/
theorem hostEvent_next {e : HostEvent} {s t : State} (h : hostEvent e s = .next t) :
    performEvent e s = .next t ∧
      (allowedWhileBusy e = true ∨ (s.status.busy = false ∧ s.mustPoll = false)) := by
  cases ha : allowedWhileBusy e with
  | true => exact ⟨by rwa [hostEvent_of_allowed s ha] at h, .inl rfl⟩
  | false =>
    cases hb : s.status.busy with
    | true => rw [hostEvent_of_busy ha hb] at h; cases h
    | false =>
      cases hp : s.mustPoll with
      | true => rw [hostEvent_of_mustPoll ha hb hp] at h; cases h
      | false => exact ⟨by rwa [hostEvent_of_ready e hb hp] at h, .inr ⟨rfl, rfl⟩⟩

/-- What a step that answers `t` was: idling, or one event performed. -/
theorem step_next {s t : State} (h : step s = .next t) :
    (s.pending = [] ∧ t = s) ∨
      ∃ e rest, s.pending = e :: rest ∧ performEvent e { s with pending := rest } = .next t := by
  cases hp : s.pending with
  | nil => exact .inl ⟨rfl, Host.Outcome.next.inj (h.symm.trans (step_idle hp))⟩
  | cons e rest =>
    rw [step_event hp] at h
    exact .inr ⟨e, rest, rfl, (hostEvent_next h).1⟩

/-- A read that answers `t` changed nothing of the core. -/
theorem readTarget_next {g : Target} {z : ReadData} {s t : State} (h : s.readTarget g z = .next t) :
    ∃ d, t = { s with readData := some d } := by
  cases g <;> simp [State.readTarget] at h
  all_goals exact ⟨_, h.symm⟩

end Sys2Proof.Machine
end

