-- ==== Sys2Proof/Laws/Commands.lean ====
section
/-! SUPPORT. What each command's body can do, said once: the inversion of its success, and what its errors are. -/

namespace Sys2Proof.Machine

theorem kexpBody_ok {s t : State} (h : kexpBody s = .ok t) :
    ∃ ks, s.selectedSize = some ks ∧ s.status.keyV = true ∧ t = s.putSchedule (expandKey ks s.key) := by
  unfold kexpBody at h
  cases hs : s.selectedSize with
  | none => simp [hs] at h
  | some ks =>
    rw [hs] at h
    simp only at h
    split at h
    · exact ⟨ks, rfl, ‹_›, (Except.ok.inj h).symm⟩
    · cases h

theorem encbBody_ok {s t : State} (h : encbBody s = .ok t) :
    ∃ nr, s.scheduleRounds = some nr ∧ t = { s with blk := cipher s.rks nr s.blk } := by
  unfold encbBody at h
  split at h
  · cases h
  · exact ⟨_, ‹_›, (Except.ok.inj h).symm⟩

theorem decbBody_ok {s t : State} (h : decbBody s = .ok t) :
    ∃ nr, s.scheduleRounds = some nr ∧ t = { s with blk := invCipher s.rks nr s.blk } := by
  unfold decbBody at h
  split at h
  · cases h
  · exact ⟨_, ‹_›, (Except.ok.inj h).symm⟩

theorem applyBody_ok {md : Option Mode} {dir : Dir} {s t : State} (h : applyBody md dir s = .ok t) :
    ∃ m nr, modeChecks md s = .ok (m, nr) ∧ (m = .ctr ∨ s.wholeBlocksCause = none) ∧
      t = s.putOutput (modeRun m dir s.rks nr s.ivr s.payload) := by
  unfold applyBody at h
  split at h
  · cases h
  · rename_i m nr hm
    split at h
    · cases h
    · rename_i hw
      refine ⟨m, nr, hm, ?_, (Except.ok.inj h).symm⟩
      by_cases hc : m = .ctr
      · exact .inl hc
      · rw [if_neg hc] at hw
        exact .inr hw

theorem padaBody_ok {np : Bool} {s t : State} (h : padaBody np s = .ok t) :
    s.payloadCause = none ∧ t = s.putOutput (padAdd np s.payload) := by
  unfold padaBody at h
  split at h
  · cases h
  · exact ⟨‹_›, (Except.ok.inj h).symm⟩

theorem padrBody_ok {np : Bool} {s t : State} (h : padrBody np s = .ok t) :
    s.payloadCause = none ∧ s.wholeBlocksCause = none ∧
      ∃ out, padRemove np s.payload = .ok out ∧ t = s.putOutput out := by
  unfold padrBody at h
  split at h
  · cases h
  · split at h
    · cases h
    · split at h
      · cases h
      · exact ⟨‹_›, ‹_›, _, ‹_›, (Except.ok.inj h).symm⟩

theorem xformBody_ok {md : Option Mode} {dir : Dir} {np : Bool} {s t : State}
    (h : xformBody md dir np s = .ok t) :
    ∃ m nr, modeChecks md s = .ok (m, nr) ∧
      (m ≠ .ctr → dir = .decrypt → s.wholeBlocksCause = none) ∧
      ∃ out, transform m dir np s.rks nr s.ivr s.payload = .ok out ∧ t = s.putOutput out := by
  unfold xformBody at h
  split at h
  · cases h
  · rename_i m nr hm
    split at h
    · cases h
    · rename_i hw
      split at h
      · cases h
      · rename_i out ho
        refine ⟨m, nr, hm, fun h1 h2 => ?_, out, ho, (Except.ok.inj h).symm⟩
        rwa [if_pos ⟨h1, h2⟩] at hw

theorem drawBody_ok {ks : Option KeySize} {q : Bool} {s t : State} (h : drawBody ks q s = .ok t) :
    s.kmLen.toNat ≤ Config.kmCap ∧ s.kmLen.toNat ≠ 0 ∧
      ∃ k, k = ks.getD (inferBits s.kmLen.toNat) ∧
        t = { (s.putKSize k.code).putKey
                (vecOf 32 (s.keyMaterial.take (min 32 (min s.kmLen.toNat (keyBytes k))))) with
              status := ((s.putKSize k.code).putKey
                (vecOf 32 (s.keyMaterial.take (min 32 (min s.kmLen.toNat (keyBytes k)))))).status.advise
                  q s.kmLen.toNat (keyBytes k) } := by
  simp only [drawBody] at h
  split at h
  · cases h
  · split at h
    · cases h
    · exact ⟨by omega, ‹_›, _, rfl, (Except.ok.inj h).symm⟩

theorem divBody_ok {q rnd : Bool} {s t : State} (h : divBody q rnd s = .ok t) :
    (rnd = true ∧ t = (s.putIvr (vecOf 16 (s.randBytes 16))).drawn 16) ∨
      (rnd = false ∧ s.ivnLen.toNat ≤ Config.ivnCap ∧
        ∃ b, b = nibDecode s.ivDigits ∧
          t = { s.putIvr (vecOf 16 (b.take (min 16 b.length))) with
                status := (s.putIvr (vecOf 16 (b.take (min 16 b.length)))).status.advise
                  q b.length 16 }) := by
  simp only [divBody] at h
  split at h
  · exact .inl ⟨‹_›, (Except.ok.inj h).symm⟩
  · split at h
    · cases h
    · refine .inr ⟨?_, by omega, _, rfl, (Except.ok.inj h).symm⟩
      cases rnd <;> simp_all

theorem stretchBody_ok {ks : Option KeySize} {kdf : Kdf} {s t : State}
    (h : stretchBody ks kdf s = .ok t) :
    s.pwLen.toNat ≤ Config.pwCap ∧ s.sLen.toNat ≤ Config.saltCap ∧ s.pwLen.toNat ≠ 0 ∧
      ∃ T k, stretchMaterial kdf s = some T ∧ k = ks.getD .k256 ∧
        t = ((({ s with str := T }).putKSize k.code).putKey (keySlice T)).putIvr (ivSlice k T) := by
  simp only [stretchBody] at h
  split at h
  · cases h
  · split at h
    · cases h
    · split at h
      · cases h
      · exact ⟨by omega, by omega, ‹_›, _, _, ‹_›, rfl, (Except.ok.inj h).symm⟩

theorem hdrBody_ok {fr : Framing} {s t : State} (h : hdrBody fr s = .ok t) :
    (fr = .salted ∧ s.sLen = 8 ∧
      t = { s with hdr := vecOf 16 (saltedMarker ++ s.mem.bytes saltBase 8) }) ∨
    (fr = .rawIv ∧ s.status.ivV = true ∧ t = { s with hdr := s.ivr }) := by
  unfold hdrBody at h
  cases fr
  · simp only at h
    split at h
    · exact .inl ⟨rfl, ‹_›, (Except.ok.inj h).symm⟩
    · cases h
  · simp only at h
    split at h
    · exact .inr ⟨rfl, ‹_›, (Except.ok.inj h).symm⟩
    · cases h

end Sys2Proof.Machine
end

