-- ==== Sys2Proof/Laws/Modes.lean ====
section
/-! SUPPORT. The lengths of what the mode layer and the padder give (R120, R136). -/

namespace Sys2Proof.Machine

/-- The blocks of a byte string, joined, are the string. -/
theorem blocksOf_flatten (nb : Nat) (x : List Byte) (h : x.length ≤ 16 * nb) :
    (blocksOf nb x).flatten = x := by
  induction nb generalizing x with
  | zero => simpa [blocksOf] using h
  | succ n ih => simp [blocksOf, ih (x.drop 16) (by simp; omega)]

/-- Every block of a string of whole blocks has 16 bytes. -/
theorem blocksOf_whole (nb : Nat) (x : List Byte) (h : x.length = 16 * nb) :
    ∀ b ∈ blocksOf nb x, b.length = 16 := by
  induction nb generalizing x with
  | zero => simp [blocksOf]
  | succ n ih =>
    intro b hb
    rcases List.mem_cons.1 hb with rfl | hb
    · simp; omega
    · exact ih (x.drop 16) (by simp; omega) b hb

theorem blocksOf_length (nb : Nat) (x : List Byte) : (blocksOf nb x).length = nb := by
  induction nb generalizing x with
  | zero => rfl
  | succ n ih => simp [blocksOf, ih]

theorem ecbRun_length (f : Block → Block) (bs : List (List Byte)) :
    (ecbRun f bs).length = 16 * bs.length := by
  induction bs with
  | nil => rfl
  | cons b bs ih => simp [ecbRun] at ih ⊢; omega

theorem cbcEncrypt_length (f : Block → Block) (chn : Block) (bs : List (List Byte)) :
    (cbcEncrypt f chn bs).length = 16 * bs.length := by
  induction bs generalizing chn with
  | nil => rfl
  | cons b bs ih => simp [cbcEncrypt, ih]; omega

theorem cbcDecrypt_length (f : Block → Block) (chn : Block) (bs : List (List Byte)) :
    (cbcDecrypt f chn bs).length = 16 * bs.length := by
  induction bs generalizing chn with
  | nil => rfl
  | cons b bs ih => simp [cbcDecrypt, ih]; omega

theorem blocksOf_le (nb : Nat) (x : List Byte) : ∀ b ∈ blocksOf nb x, b.length ≤ 16 := by
  induction nb generalizing x with
  | zero => simp [blocksOf]
  | succ n ih =>
    intro b hb
    rcases List.mem_cons.1 hb with rfl | hb
    · simp
    · exact ih _ b hb

theorem ctrRun_length (f : Block → Block) (chn : Block) (bs : List (List Byte))
    (h : ∀ b ∈ bs, b.length ≤ 16) : (ctrRun f chn bs).length = bs.flatten.length := by
  induction bs generalizing chn with
  | nil => rfl
  | cons b bs ih =>
    have hb := h b (by simp)
    have hbs := ih (nextCounter chn) fun c hc => h c (by simp [hc])
    simp [ctrRun] at hbs ⊢
    omega

/-- "the result has exactly `n` bytes" (R120): CTR for every length, ECB and CBC for whole blocks. -/
theorem modeRun_length (md : Mode) (dir : Dir) (rks : Vector Byte 240) (nr : Nat) (iv : Block)
    (x : List Byte) (h : md = .ctr ∨ x.length % 16 = 0) :
    (modeRun md dir rks nr iv x).length = x.length := by
  have hctr : (modeRun .ctr dir rks nr iv x).length = x.length := by
    rw [modeRun, ctrRun_length _ _ _ (blocksOf_le _ _), blocksOf_flatten _ _ (by unfold blockCount; omega)]
  have hlen : md ≠ .ctr → 16 * (blocksOf (blockCount x.length) x).length = x.length := fun hm => by
    rw [blocksOf_length]
    have := h.resolve_left hm
    unfold blockCount
    omega
  cases md with
  | ecb => cases dir <;> simp only [modeRun, ecbRun_length] <;> exact hlen (by decide)
  | cbc =>
    cases dir
    · simp only [modeRun, cbcEncrypt_length]; exact hlen (by decide)
    · simp only [modeRun, cbcDecrypt_length]; exact hlen (by decide)
  | ctr => exact hctr

/-- How much `PadAdd` adds (R136). -/
theorem padAdd_length (np : Bool) (x : List Byte) :
    (padAdd np x).length =
      if np = true ∧ x.length % 16 = 0 then x.length else x.length + (16 - x.length % 16) := by
  unfold padAdd
  by_cases h : np = true ∧ x.length % 16 = 0
  · simp [h.1, h.2]
  · rw [if_neg h, if_neg fun hc => h ⟨hc.1, by omega⟩]
    simp

theorem padAdd_length_mod (np : Bool) (x : List Byte) : (padAdd np x).length % 16 = 0 := by
  rw [padAdd_length]
  split <;> omega

theorem padRemove_length {np : Bool} {y out : List Byte} (h : padRemove np y = .ok out) :
    out.length ≤ y.length := by
  simp only [padRemove] at h
  split at h
  · rw [Except.ok.inj h]
  · split at h
    · rw [← Except.ok.inj h]; simp
    · cases h

/-- `Transform` never gives more than one block above its input (R145's table). -/
theorem transform_length {md : Mode} {dir : Dir} {np : Bool} {rks : Vector Byte 240} {nr : Nat}
    {iv : Block} {x out : List Byte} (h : transform md dir np rks nr iv x = .ok out)
    (hw : md ≠ .ctr → dir = .decrypt → x.length % 16 = 0) : out.length ≤ x.length + 16 := by
  unfold transform at h
  split at h
  · rw [← Except.ok.inj h, modeRun_length _ _ _ _ _ _ (.inl rfl)]; omega
  · rename_i hm
    cases dir with
    | encrypt =>
      rw [← Except.ok.inj h, modeRun_length _ _ _ _ _ _ (.inr (padAdd_length_mod np x)), padAdd_length]
      split <;> omega
    | decrypt =>
      have := padRemove_length h
      rw [modeRun_length _ _ _ _ _ _ (.inr (hw hm rfl))] at this
      omega

end Sys2Proof.Machine
end

