-- ==== Sys2Proof/Laws/PerInstr.lean ====
section
/-! SUPPORT. The per-instruction family `Encoding`: each command's word decodes to the command, and the command
matches its own row of the opcode table (`30_encoding.md` R62). -/

namespace Sys2Proof.Laws

/-- The word of `i` decodes to `i`, and `(w & mask) = match` for the row of `i` and no other row. -/
def Encoding.Statement (i : Instr) : Prop :=
  decode (encode i) = .ok i ∧
    ∀ o ∈ Opcode.all, (encode i &&& o.mask = o.pattern ↔ o = i.opcode)

theorem Encoding.kexp : Encoding.Statement .kexp := by unfold Encoding.Statement; decide

theorem Encoding.encb : Encoding.Statement .encb := by unfold Encoding.Statement; decide

theorem Encoding.decb : Encoding.Statement .decb := by unfold Encoding.Statement; decide

theorem Encoding.apply (md : Option Mode) (dir : Dir) : Encoding.Statement (.apply md dir) := by
  unfold Encoding.Statement
  rcases md with _ | _ | _ | _ <;> cases dir <;> decide

theorem Encoding.pada (np : Bool) : Encoding.Statement (.pada np) := by
  unfold Encoding.Statement
  cases np <;> decide

theorem Encoding.padr (np : Bool) : Encoding.Statement (.padr np) := by
  unfold Encoding.Statement
  cases np <;> decide

theorem Encoding.xform (md : Option Mode) (dir : Dir) (np : Bool) :
    Encoding.Statement (.xform md dir np) := by
  unfold Encoding.Statement
  rcases md with _ | _ | _ | _ <;> cases dir <;> cases np <;> decide

theorem Encoding.draw (ks : Option KeySize) (q : Bool) : Encoding.Statement (.draw ks q) := by
  unfold Encoding.Statement
  rcases ks with _ | _ | _ | _ <;> cases q <;> decide

theorem Encoding.div (q rnd : Bool) : Encoding.Statement (.div q rnd) := by
  unfold Encoding.Statement
  cases q <;> cases rnd <;> decide

theorem Encoding.stretch (ks : Option KeySize) (kdf : Kdf) :
    Encoding.Statement (.stretch ks kdf) := by
  unfold Encoding.Statement
  rcases ks with _ | _ | _ | _ <;> cases kdf <;> decide

theorem Encoding.saltgen : Encoding.Statement .saltgen := by unfold Encoding.Statement; decide

theorem Encoding.hdr (fr : Framing) : Encoding.Statement (.hdr fr) := by
  unfold Encoding.Statement
  cases fr <;> decide

theorem Encoding.clr : Encoding.Statement .clr := by unfold Encoding.Statement; decide

end Sys2Proof.Laws
end

