-- ==== Sys2Proof/Tests/Slice0.lean ====
section
/-! SUPPORT. The model's own tests. Expected values are the spec's: its encodings (`30_encoding.md` R60 to R68), its
test vectors (`95_test_vectors.md`, `96_derived_vectors.md`) and its worked examples. After them one witness for
each statement that has hypotheses, at the edges of its clauses. -/

namespace Sys2Proof.Tests

open Sys2Proof.Machine

set_option Elab.async false

/-! ### Helpers -/

/-- The `n` bytes of a hex string written as one number, first byte first (R7). -/
def hex (n v : Nat) : List Byte :=
  (List.range n).map fun i => BitVec.ofNat 8 (v / 256 ^ (n - 1 - i))

/-- The field `f` of the state an outcome ends in, none after a fault or a refusal. -/
def after {α : Type} (o : Host.Outcome State Fault Refusal) (f : State → α) : Option α :=
  match o with
  | .next t => some (f t)
  | .fault _ => none
  | .refused _ => none

theorem after_eq_some {α : Type} {o : Host.Outcome State Fault Refusal} {f : State → α} {v : α} :
    after o f = some v ↔ ∃ t, o = .next t ∧ f t = v := by
  cases o <;> simp [after]

/-- Why an outcome stopped, none after a next state. -/
def stop (o : Host.Outcome State Fault Refusal) : Option (Fault ⊕ Refusal) :=
  match o with
  | .next _ => none
  | .fault f => some (.inl f)
  | .refused r => some (.inr r)

/-- The reset state with the host about to do these things. -/
def hostDoes (es : List HostEvent) : State :=
  { State.reset with pending := es }

/-- The reset state with a key written and its size selected. -/
def keyed (ks : KeySize) (key : List Byte) : State :=
  { State.reset with
      key := vecOf 32 key, kSize := ks.code, status := { Status.reset with keyV := true } }

/-- `keyed`, and its schedule expanded. -/
def scheduled (ks : KeySize) (key : List Byte) : State :=
  { keyed ks key with
      rks := expandKey ks (vecOf 32 key), rkSize := ks.code,
      status := { Status.reset with keyV := true, rkV := true } }

/-- With an IV written. -/
def withIv (iv : List Byte) (s : State) : State :=
  { s with ivr := vecOf 16 iv, status := { s.status with ivV := true } }

/-- With a block in `BLK`. -/
def withBlock (b : List Byte) (s : State) : State :=
  { s with blk := vecOf 16 b }

/-- With bytes in a buffer, from an offset of the register space on. -/
def withBytes (a : Nat) (bs : List Byte) (s : State) : State :=
  { s with mem := s.mem.write a bs }

/-- With a payload in `IBUF` and its length in `ILEN`. -/
def withPayload (bs : List Byte) (s : State) : State :=
  { s with mem := s.mem.write 0x10000 bs, iLen := BitVec.ofNat 32 bs.length }

/-- With a value in `ILEN`. -/
def withLen (n : Nat) (s : State) : State :=
  { s with iLen := BitVec.ofNat 32 n }

/-- With `BUSY` set, a state of no run. -/
def busyCore (es : List HostEvent) : State :=
  { hostDoes es with status := { Status.reset with busy := true } }

/-- The host has written `CMD` and not polled since. -/
def unpolled (es : List HostEvent) : State :=
  { hostDoes es with mustPoll := true }

/-- The key of V1. -/
def keyV1 : List Byte := hex 16 0x000102030405060708090a0b0c0d0e0f

/-- The block of V1. -/
def blockV1 : List Byte := hex 16 0x00112233445566778899aabbccddeeff

/-! ### Well-formed events: one ill-formed event for each check, refused by the check and by the step -/

theorem test_outside_space_ill_formed :
    (HostEvent.readByte 0x30000).inSpace = false ∧
    stop (step (hostDoes [.readByte 0x30000])) = some (.inl .outsideRegisterSpace) := by
  decide +kernel

theorem test_misaligned_word_ill_formed :
    (HostEvent.readWord 0x006).aligned = false ∧
    stop (step (hostDoes [.readWord 0x006])) = some (.inr .illFormedAccess) := by
  decide +kernel

theorem test_misaligned_byte_below_40_ill_formed :
    (HostEvent.writeByte 0x011 0).aligned = false ∧
    stop (step (hostDoes [.writeByte 0x011 0])) = some (.inr .illFormedAccess) := by
  decide +kernel

theorem test_word_in_window_ill_formed :
    (HostEvent.writeWord 0x040 0).noWordInWindow 4096 = false ∧
    stop (step (hostDoes [.writeWord 0x040 0])) = some (.inr .illFormedAccess) := by
  decide +kernel

theorem test_byte_of_register_ill_formed :
    (HostEvent.readByte 0x004).noByteOfRegister = false ∧
    stop (step (hostDoes [.readByte 0x004])) = some (.inr .illFormedAccess) := by
  decide +kernel

/-! ### Decoding: words written out bit by bit from R60, `FR RND Q KDF NP DIR MD KS OP` from bit 13 down -/

theorem test_decode_kexp : decode 0b0_0_0_0_0_0_00_00_0001 = .ok .kexp := by decide

theorem test_decode_encb : decode 0b0_0_0_0_0_0_00_00_0010 = .ok .encb := by decide

theorem test_decode_decb : decode 0b0_0_0_0_0_0_00_00_0011 = .ok .decb := by decide

theorem test_decode_apply :
    decode 0b0_0_0_0_0_1_10_00_0100 = .ok (.apply (some .ctr) .decrypt) ∧
    decode 0b0_0_0_0_0_0_11_00_0100 = .ok (.apply none .encrypt) := by decide

theorem test_decode_pada : decode 0b0_0_0_0_1_0_00_00_0101 = .ok (.pada true) := by decide

theorem test_decode_padr : decode 0b0_0_0_0_1_0_00_00_0110 = .ok (.padr true) := by decide

theorem test_decode_xform :
    decode 0b0_0_0_0_0_1_01_00_0111 = .ok (.xform (some .cbc) .decrypt false) ∧
    decode 0b0_0_0_0_1_0_00_00_0111 = .ok (.xform (some .ecb) .encrypt true) := by decide

theorem test_decode_draw :
    decode 0b0_0_1_0_0_0_00_00_1000 = .ok (.draw (some .k128) true) ∧
    decode 0b0_0_0_0_0_0_00_10_1000 = .ok (.draw (some .k256) false) := by decide

theorem test_decode_div :
    decode 0b0_1_0_0_0_0_00_00_1001 = .ok (.div false true) ∧
    decode 0b0_0_1_0_0_0_00_00_1001 = .ok (.div true false) := by decide

theorem test_decode_stretch :
    decode 0b0_0_0_1_0_0_00_01_1010 = .ok (.stretch (some .k192) .argon2id) ∧
    decode 0b0_0_0_0_0_0_00_11_1010 = .ok (.stretch none .pbkdf2) := by decide

theorem test_decode_saltgen : decode 0b0_0_0_0_0_0_00_00_1011 = .ok .saltgen := by decide

theorem test_decode_hdr :
    decode 0b1_0_0_0_0_0_00_00_1100 = .ok (.hdr .rawIv) ∧
    decode 0b0_0_0_0_0_0_00_00_1100 = .ok (.hdr .salted) := by decide

theorem test_decode_clr : decode 0b0_0_0_0_0_0_00_00_1101 = .ok .clr := by decide

/-- `96_derived_vectors.md` section 2.11: the words that decode to no command, and why. -/
theorem test_decode_illegal :
    ([0x00000000, 0x0000000E, 0x0000000F, 0xFFFFFFFF] : List Word).map decode =
      List.replicate 4 (.error .reservedOpcode) ∧
    ([0x00000011, 0x00004001, 0x80000004, 0x0000100B, 0x00000409, 0x0000083A, 0x0000200D] :
        List Word).map decode = List.replicate 7 (.error .reservedEncoding) := by
  decide +kernel

/-- The same section: `STATUS` after each word written to `CMD` at reset, illegal and legal ones. -/
theorem test_status_of_words_at_reset :
    ([0x0, 0xE, 0xFFFFFFFF, 0x11, 0x4001, 0x80000004, 0x1, 0xC7, 0xB, 0x1809, 0x43A, 0x838] :
        List Word).map (fun w => after (step (hostDoes [.writeWord 0x000 w])) fun t => t.status.word) =
      [0x00000114, 0x00000114, 0x00000114, 0x00000214, 0x00000214, 0x00000214, 0x00000314, 0x00000414,
        0x00000002, 0x00020002, 0x00000514, 0x00000514].map some := by
  decide +kernel

/-- `withFetchWord` places the word where the next step takes it. -/
theorem test_fetch_word_runs :
    after (step (State.reset.withFetchWord 32 0x0000200C)) (fun t => t.status.word) = some 0x00000714 ∧
    decodeTableWord 32 0x00000347 = some (.xform (some .cbc) .decrypt true) := by
  decide +kernel

/-! ### Commands -/

/-- `96_derived_vectors.md` section 2.1: round keys 0 and 10 of the 128-bit schedule of V1's key. -/
theorem test_kexp_128 :
    after (exec .kexp (keyed .k128 keyV1))
      (fun t => (t.rks.toList.take 16, (t.rks.toList.drop 160).take 17, t.rkSize, t.status.word)) =
    some (keyV1, hex 16 0x13111d7fe3944a17f307a78b4d2b30c5 ++ [0], 0, 0x00050002) := by
  decide +kernel

/-- The same section: `w[8]` to `w[12]` of a 256-bit schedule, `w[12]` by the branch `i mod 8 = 4`. -/
theorem test_kexp_256 :
    after (exec .kexp (keyed .k256
        (hex 32 0x603deb1015ca71be2b73aef0857d77811f352c073b6108d72d9810a30914dff4)))
      (fun t => (t.rks.toList.drop 32).take 20) =
    some (hex 16 0x9ba354118e6925afa51a8b5f2067fcde ++ hex 4 0xa8b09c1a) := by
  decide +kernel

/-- V1, encryption. -/
theorem test_encb_128 :
    after (exec .encb (withBlock blockV1 (scheduled .k128 keyV1)))
      (fun t => (t.blk.toList, t.status.word)) =
    some (hex 16 0x69c4e0d86a7b0430d8cdb78070b4c55a, 0x00050002) := by
  decide +kernel

/-- `96_derived_vectors.md` section 2.3: 12 rounds for 192 bits. -/
theorem test_encb_192 :
    after (exec .encb (withBlock blockV1
        (scheduled .k192 (hex 24 0x000102030405060708090a0b0c0d0e0f1011121314151617))))
      (fun t => t.blk.toList) =
    some (hex 16 0xdda97ca4864cdfe06eaf70a0ec0d7191) := by
  decide +kernel

/-- V1, decryption. -/
theorem test_decb_128 :
    after (exec .decb (withBlock (hex 16 0x69c4e0d86a7b0430d8cdb78070b4c55a) (scheduled .k128 keyV1)))
      (fun t => (t.blk.toList, t.status.word)) =
    some (blockV1, 0x00050002) := by
  decide +kernel

/-- `96_derived_vectors.md` section 2.3: no schedule, `BLK` unchanged. -/
theorem test_decb_without_schedule :
    after (exec .decb (withBlock blockV1 State.reset)) (fun t => (t.blk.toList, t.status.word)) =
    some (blockV1, 0x00000614) := by
  decide +kernel

/-- V3, its first 17 bytes: the counter goes from all ones to all zeros. -/
theorem test_apply_ctr_wraps :
    after (exec (.apply (some .ctr) .encrypt) (withPayload (List.replicate 17 0)
        (withIv (List.replicate 16 0xFF) (scheduled .k128 keyV1))))
      (fun t => (t.mem.bytes 0x20000 18, t.oLen, t.ivr.toList, t.status.word)) =
    some (hex 17 0x3c441f32ce07822364d7a2990e50bb13c6 ++ [0], 17, List.replicate 16 0xFF,
      0x00070002) := by
  decide +kernel

/-- V5, the first two blocks of its CBC vector, decrypted. -/
theorem test_apply_cbc_decrypts :
    after (exec (.apply (some .cbc) .decrypt) (withPayload
        (hex 32 0x7649abac8119b246cee98e9b12e9197d5086cb9b507219ee95db113a917678b2)
        (withIv keyV1 (scheduled .k128 (hex 16 0x2b7e151628aed2a6abf7158809cf4f3c)))))
      (fun t => (t.mem.bytes 0x20000 32, t.oLen)) =
    some (hex 32 0x6bc1bee22e409f96e93d7e117393172aae2d8a571e03ac9c9eb76fac45af8e51, 32) := by
  decide +kernel

/-- `96_derived_vectors.md` section 2.5: `PADA` of 3 bytes. -/
theorem test_pada_three_bytes :
    after (exec (.pada false) (withPayload [0x61, 0x62, 0x63] State.reset))
      (fun t => (t.mem.bytes 0x20000 17, t.oLen, t.status.word)) =
    some (hex 16 0x6162630d0d0d0d0d0d0d0d0d0d0d0d0d ++ [0], 16, 0x00000002) := by
  decide +kernel

/-- The same section: 16 bytes, a full pad block, and none under `nopkcs`. -/
theorem test_pada_whole_block :
    after (exec (.pada false) (withPayload keyV1 State.reset))
      (fun t => (t.mem.bytes 0x20000 33, t.oLen)) = some (keyV1 ++ List.replicate 16 0x10 ++ [0], 32) ∧
    after (exec (.pada true) (withPayload keyV1 State.reset))
      (fun t => (t.mem.bytes 0x20000 17, t.oLen)) = some (keyV1 ++ [0], 16) := by
  decide +kernel

/-- The same section: the pad bytes before the count are not looked at; a whole pad block leaves nothing. -/
theorem test_padr_counts :
    after (exec (.padr false) (withPayload (hex 16 0x61626300000000000000000000000003) State.reset))
      (fun t => (t.mem.bytes 0x20000 14, t.oLen)) = some (hex 14 0x6162630000000000000000000000, 13) ∧
    after (exec (.padr false) (withPayload (List.replicate 16 0x10) State.reset))
      (fun t => (t.oLen, t.status.word)) = some (0, 0x00000002) := by
  decide +kernel

/-- The same section: counts 0 and 17, and lengths 15 and 17. -/
theorem test_padr_errors :
    [hex 16 0, hex 16 0x11, hex 15 0, hex 17 0].map (fun x =>
      after (exec (.padr false) (withPayload x State.reset)) fun t => (t.oLen, t.status.word)) =
    [0x00002244, 0x00002244, 0x00002044, 0x00002144].map fun w => some ((0 : Word), (w : Word)) := by
  decide +kernel

/-- `96_derived_vectors.md` section 2.6: `XFORM cbc, enc` of one byte. -/
theorem test_xform_encrypts_one_byte :
    after (exec (.xform (some .cbc) .encrypt false)
        (withPayload [0x00] (withIv keyV1 (scheduled .k128 keyV1))))
      (fun t => (t.mem.bytes 0x20000 17, t.oLen, t.status.word)) =
    some (hex 16 0xdc3b176fc126196d18552c0f6581ae28 ++ [0], 16, 0x00070002) := by
  decide +kernel

/-- The same section: `XFORM ecb, dec` of a block whose last byte is `02` and the one before it `ee`. -/
theorem test_xform_decrypt_checks_count_only :
    after (exec (.xform (some .ecb) .decrypt false)
        (withPayload (hex 16 0x1db3bc184460ccf16eebb7084355aa2c) (scheduled .k128 keyV1)))
      (fun t => (t.mem.bytes 0x20000 15, t.oLen)) =
    some (hex 14 0x00112233445566778899aabbccdd ++ [0], 14) := by
  decide +kernel

/-- V6: a short key, reported. -/
theorem test_draw_short :
    after (exec (.draw none false) { withBytes 0x280 [0x61, 0x62, 0x63] State.reset with kmLen := 3 })
      (fun t => (t.key.toList, t.kSize, t.status.word)) =
    some ([0x61, 0x62, 0x63] ++ List.replicate 29 0, 0, 0x01010002) := by
  decide +kernel

/-- `96_derived_vectors.md` section 2.7: 40 bytes `a0 a1 ..` at 192 bits keep 24, reported unless quiet. -/
theorem test_draw_long :
    [false, true].map (fun q => after (exec (.draw (some .k192) q)
        { withBytes 0x280 ((List.range 40).map fun i => BitVec.ofNat 8 (0xA0 + i)) State.reset with
            kmLen := 40 })
      (fun t => (t.key.toList.drop 23, t.kSize, t.status.word))) =
    [some (0xB7 :: List.replicate 8 0, 1, 0x02010002),
      some (0xB7 :: List.replicate 8 0, 1, 0x00010002)] := by
  decide +kernel

/-- V12: the digits `abc`, two bytes `ab c0`. -/
theorem test_div_odd :
    after (exec (.div false false) { withBytes 0x240 [0x0A, 0x0B, 0x0C] State.reset with ivnLen := 3 })
      (fun t => (t.ivr.toList, t.status.word)) =
    some (0xAB :: 0xC0 :: List.replicate 14 0, 0x01020002) := by
  decide +kernel

/-- `96_derived_vectors.md` section 2.8: 33 digits make 17 bytes, one too many; 65 are above the capacity. -/
theorem test_div_long :
    [33, 65].map (fun n => after (exec (.div false false)
        { withBytes 0x240 (List.replicate 33 0x0F) State.reset with ivnLen := n })
      (fun t => (t.ivr.toList, t.status.word))) =
    [some (List.replicate 16 0xFF, 0x02020002), some (List.replicate 16 0, 0x00000814)] := by
  decide +kernel

/-- `96_derived_vectors.md` section 2.9: SHA-256 of `abc`, which fits one block, and of 56 bytes, which does
not. -/
theorem test_stretch_sha256 :
    sha256 [0x61, 0x62, 0x63] =
      hex 32 0xba7816bf8f01cfea414140de5dae2223b00361a396177a9cb410ff61f20015ad ∧
    sha256 (List.replicate 56 0x61) =
      hex 32 0xb35439a4ac6f0948b6d6f9e3c6af0f5f590ce20f1bde7090ef7970686ec6738a := by
  decide +kernel

/-- The same section: the errors of `STRETCH`, no password, and a length above its capacity. -/
theorem test_stretch_errors :
    [(0, 0), (257, 0), (1, 65)].map (fun p => after (exec (.stretch none .pbkdf2)
        { State.reset with pwLen := p.1, sLen := p.2 }) fun t => t.status.word) =
    [some 0x00000514, some 0x00000814, some 0x00000814] := by
  decide +kernel

/-- `96_derived_vectors.md` section 2.10: `SALTGEN` sets `SLEN = 8`; its bytes are the random source's. -/
theorem test_saltgen :
    after (exec .saltgen State.reset) (fun t => (t.sLen, t.status.word, t.randCount)) =
    some (8, 0x00000002, 8) := by
  decide +kernel

/-- The same section: `HDR salted` with the salt `01 .. 08`, and with `SLEN = 4`. -/
theorem test_hdr_salted :
    [8, 4].map (fun n => after (exec (.hdr .salted)
        { withBytes 0x200 (hex 8 0x0102030405060708) State.reset with sLen := n })
      (fun t => (t.hdr.toList, t.status.word))) =
    [some (hex 16 0x53616c7465645f5f0102030405060708, 0x00000002),
      some (List.replicate 16 0, 0x00000A14)] := by
  decide +kernel

/-- The same section: `HDR rawiv` with an IV. -/
theorem test_hdr_rawiv :
    after (exec (.hdr .rawIv) (withIv keyV1 State.reset)) (fun t => (t.hdr.toList, t.status.word)) =
    some (keyV1, 0x00020002) := by
  decide +kernel

/-- The same section: `CLR` from a state with a key, an IV and a payload. -/
theorem test_clr :
    after (exec .clr (withPayload [0x55] (withIv keyV1 (keyed .k128 keyV1))))
      (fun t => (t.status.word, t.kSize, t.iLen, t.key.toList, t.ivr.toList ++ t.mem.bytes 0x10000 1)) =
    some (0x00000002, 3, 0, List.replicate 32 0, List.replicate 17 0) := by
  decide +kernel

/-! ### Tables and field arithmetic (`96_derived_vectors.md` section 2.2), key derivation functions (2.9) -/

theorem test_gmul_and_tables :
    xtime 0x57 = 0xAE ∧ xtime 0x80 = 0x1B ∧ xtime 0xFF = 0xE5 ∧ gmul 0x57 0x83 = 0xC1 ∧
    gmul 0x03 0x6E = 0xB2 ∧ gmul 0x0E 0x47 = 0x87 ∧ gmul 0x53 0xCA = 0x01 ∧
    sbox 0x00 = 0x63 ∧ sbox 0x53 = 0xED ∧ sbox 0xFF = 0x16 ∧ invSbox 0xED = 0x53 ∧
    [1, 2, 3, 4, 5, 6, 7, 8, 9, 10].map rcon =
      [0x01, 0x02, 0x04, 0x08, 0x10, 0x20, 0x40, 0x80, 0x1B, 0x36] := by
  decide +kernel

theorem test_sums_of_sbox :
    sboxTable.foldl (fun x y => x ^^^ y) 0 = 0x00 ∧
    (sboxTable.map fun x => x.toNat).sum = 32640 ∧ (invSboxTable.map fun x => x.toNat).sum = 32640 := by
  decide +kernel

theorem test_columns_and_rows :
    (mixColumns (vecOf 16 (hex 16 0xdb13534501010101c6c6c6c6d4d4d4d5))).toList =
      hex 16 0x8e4da1bc01010101c6c6c6c6d5d5d7d6 ∧
    (shiftRows (vecOf 16 keyV1)).toList = hex 16 0x00050a0f04090e03080d02070c01060b ∧
    (invShiftRows (vecOf 16 keyV1)).toList = hex 16 0x000d0a0704010e0b0805020f0c090603 := by
  decide +kernel

/-- `PBKDF2("Password", "NaCl", 1, 48)`, which is two values of HMAC. -/
theorem test_pbkdf2_one_iteration :
    pbkdf2 (hex 8 0x50617373776f7264) (hex 4 0x4e61436c) 1 48 =
      hex 48 0xc600404e39c9e97a7d7a745b32c3e7426387b365693c7f59300fd8a03aab4c6e53e2ed2f8baa34fb8c7a6bffa68beb15 := by
  decide +kernel

/-! ### Host accesses (`96_derived_vectors.md` section 2.12) -/

/-- A write of `KSIZE` keeps two bits; one of `STATUS` is ignored; a reserved offset reads 0. -/
theorem test_word_accesses :
    after (step (hostDoes [.writeWord 0x008 0xFFFFFFFE])) (fun t => t.readReg .kSize) = some 2 ∧
    after (step (hostDoes [.writeWord 0x004 0xFFFFFFFF])) (fun t => t.status.word) = some 0 ∧
    after (step (hostDoes [.readWord 0x02C])) (fun t => t.readData) = some (some (.word 0)) := by
  decide +kernel

/-- A write of `IVNIB[0]` keeps the low nibble; one of `KEY` drops a schedule, one of `IVR` does not. -/
theorem test_byte_writes :
    after (step (hostDoes [.writeByte 0x240 0xAB])) (fun t => t.readWindow .ivnib 0) = some 0x0B ∧
    [0x040, 0x060].map (fun off => after
        (step { scheduled .k128 keyV1 with
            status := doneStatus (scheduled .k128 keyV1).status, pending := [.writeByte off 0x00] })
      (fun t => (t.rkSize, t.status.word))) =
    [some (3, 0x00010002), some (0, 0x00070002)] := by
  decide +kernel

/-- R226: a write of `CMD`, of an illegal word too, begins the host's wait; then an access is refused; a read of
`STATUS` is answered and ends the wait. -/
theorem test_busy_hazard :
    [0xB, 0xD, 0x0].map (fun w => after (step (hostDoes [.writeWord 0x000 w])) fun t => t.mustPoll) =
      List.replicate 3 (some true) ∧
    [HostEvent.writeByte 0x040 0, .readWord 0x018, .writeWord 0x000 0x1, .readByte 0x20000,
      .readByte 0x30000].map (fun e => stop (step (unpolled [e]))) =
      List.replicate 5 (some (.inr .accessBeforePoll)) ∧
    [HostEvent.readWord 0x004, .reset].map (fun e => after (step (unpolled [e])) fun t =>
      (t.mustPoll, t.readData)) = [some (false, some (.word 0)), some (false, none)] := by
  decide +kernel

/-! ### Witnesses: for each statement with hypotheses, states and operands that meet them, at the edges -/

/-- `IllegalWordsByName`'s last clause: bit 14 and bit 31. -/
theorem test_witness_high_bits :
    [0x00004001, 0x80000004].map (fun w : Word => (w.extractLsb' 14 18 ≠ 0 : Bool)) = [true, true] := by
  decide +kernel

/-- A word that decodes to nothing is no command's word. -/
theorem test_not_encoded {w : Word} {e : DecodeError} (h : decode w = .error e) :
    ∀ i, encode i ≠ w := by
  rintro i rfl
  have : decode (encode i) = .ok i := by
    cases i with
    | kexp => exact Laws.Encoding.kexp.1
    | encb => exact Laws.Encoding.encb.1
    | decb => exact Laws.Encoding.decb.1
    | apply md dir => exact (Laws.Encoding.apply md dir).1
    | pada np => exact (Laws.Encoding.pada np).1
    | padr np => exact (Laws.Encoding.padr np).1
    | xform md dir np => exact (Laws.Encoding.xform md dir np).1
    | draw ks q => exact (Laws.Encoding.draw ks q).1
    | div q rnd => exact (Laws.Encoding.div q rnd).1
    | stretch ks kdf => exact (Laws.Encoding.stretch ks kdf).1
    | saltgen => exact Laws.Encoding.saltgen.1
    | hdr fr => exact (Laws.Encoding.hdr fr).1
    | clr => exact Laws.Encoding.clr.1
  rw [this] at h
  cases h

/-- `StepRunsDecodedCommand`: a pending command word, and no event. -/
theorem test_witness_step_runs :
    (hostDoes [.writeWord 0x000 0xB]).pending = .writeWord 0x000 0xB :: [] ∧
    (hostDoes [.writeWord 0x000 0xB]).ready ∧ decode 0xB = .ok .saltgen ∧
    State.reset.pending = [] := by
  decide +kernel

/-- `IllegalWordRaises`: each reserved opcode, and a reserved encoding. -/
theorem test_witness_illegal_words :
    [0x0, 0xFFFFFFFE, 0xF].map (fun w : Word => w.extractLsb' 0 4) = [0x0, 0xE, 0xF] ∧
    (0x00000011 : Word).extractLsb' 0 4 = 0x1 ∧ (∀ i, encode i ≠ 0x00000011) ∧
    (hostDoes [.writeWord 0x000 0x11]).pending = .writeWord 0x000 0x11 :: [] ∧
    (hostDoes [.writeWord 0x000 0x11]).ready :=
  ⟨by decide, by decide, test_not_encoded (e := .reservedEncoding) (by decide), rfl, by decide⟩

/-- `ResetEventRestoresReset` and `BusyAccessesRefused`: a busy core before a reset, a read of `STATUS`, and
other accesses. -/
theorem test_witness_busy :
    [HostEvent.reset, .readWord 0x004, .readWord 0x000, .writeByte 0x040 0].map
      (fun e => ((busyCore [e]).status.busy, decide ((busyCore [e]).pending = [e]))) =
    List.replicate 4 (true, true) := by
  decide +kernel

/-- `BusyAccessesRefused`, its second and third clause: a host that has yet to poll, before a read of `STATUS` and
before other accesses; a write of `CMD` on a ready core answers a next state. -/
theorem test_witness_unpolled :
    [HostEvent.readWord 0x004, .readWord 0x000, .writeByte 0x040 0, .writeWord 0x000 0xB].map
      (fun e => ((unpolled [e]).status.busy, (unpolled [e]).mustPoll,
        decide ((unpolled [e]).pending = [e]))) = List.replicate 4 (false, true, true) ∧
    after (step (hostDoes [.writeWord 0x000 0xB])) (fun t => t.status.done) = some true := by
  decide +kernel

/-- `ErrorChangesOnlyStatus`, `CausesOfEachCommand`, `CommandFrame`: commands that answer a next state with an
error, every cause but the bridge's 0x30 among them. -/
theorem test_witness_commands_raise :
    [ (Instr.kexp, State.reset), (.kexp, { State.reset with kSize := 0 }), (.encb, State.reset),
      (.decb, State.reset), (.apply none .encrypt, State.reset),
      (.apply (some .ctr) .encrypt, State.reset),
      (.apply (some .cbc) .encrypt, scheduled .k128 keyV1),
      (.apply (some .ctr) .decrypt, withIv keyV1 (withLen 4097 (scheduled .k128 keyV1))),
      (.apply (some .ecb) .encrypt, scheduled .k128 keyV1),
      (.apply (some .ecb) .encrypt, withLen 15 (scheduled .k128 keyV1)),
      (.apply (some .ecb) .decrypt, withLen 17 (scheduled .k128 keyV1)),
      (.pada true, State.reset), (.padr false, withLen 4097 State.reset),
      (.padr true, withLen 15 State.reset), (.padr false, withLen 16 State.reset),
      (.xform none .decrypt true, State.reset),
      (.xform (some .cbc) .decrypt false, withIv keyV1 (withLen 17 (scheduled .k128 keyV1))),
      (.draw none true, State.reset), (.draw none true, { State.reset with kmLen := 65 }),
      (.div false false, { State.reset with ivnLen := 65 }), (.stretch none .argon2id, State.reset),
      (.hdr .salted, State.reset), (.hdr .rawIv, State.reset) ].map
      (fun p => after (exec p.1 p.2) fun t => (t.status.err, t.status.cause)) =
    ([0x03, 0x05, 0x06, 0x06, 0x04, 0x06, 0x07, 0x08, 0x09, 0x20, 0x21, 0x09, 0x08, 0x20, 0x22, 0x04,
      0x21, 0x05, 0x08, 0x08, 0x05, 0x0A, 0x07] : List (BitVec 8)).map fun c => some (true, c) := by
  decide +kernel

/-- Every statement with `Config.legalBufCap`: both ends of R6's range, and the values beyond them. -/
theorem test_witness_legal_capacity :
    Config.legalBufCap 1 ∧ Config.legalBufCap 4096 ∧ Config.legalBufCap 65520 ∧
    ¬Config.legalBufCap 0 ∧ ¬Config.legalBufCap 65521 := by
  decide

/-- `RefusesExactlyIllFormedAccesses`: events on both sides of each clause, as the checks see them. -/
theorem test_witness_accesses :
    [HostEvent.readWord 0x2FFFC, .readByte 0x30000].map (fun e => e.inSpace) = [true, false] ∧
    [HostEvent.readWord 0x028, .readWord 0x02A, .writeWord 0x03C 0, .writeWord 0x040 0, .readByte 0x03C,
      .readByte 0x03D, .readByte 0x028, .readByte 0x040, .writeByte 0x10FFF 0, .readByte 0x2100F,
      .readWord 0x11000, .reset].map (fun e => e.wellFormed 4096) =
    [true, false, true, false, true, false, false, true, true, true, true, true] := by
  decide +kernel

/-- `ReadsAnswerAndChangeNothing`: the last byte of each window, as the map sees it. -/
theorem test_witness_window_ends :
    Window.all.map (fun w => byteTarget 4096 (w.base + (w.size 4096 - 1))) =
      Window.all.map (fun w => Target.byte w (w.size 4096 - 1)) ∧
    Window.all.map (fun w => byteTarget 65520 w.base) = Window.all.map (fun w => Target.byte w 0) ∧
    byteTarget 65520 0x2FFFF = .byte .obuf 65535 := by
  decide +kernel

/-- `ReadsAnswerAndChangeNothing`, the values written out: a register of each shape, the bits of `STATUS`, and the
last byte of a window and of a memory window, each told from its neighbours. -/
theorem test_witness_reads :
    [(0x000, 0), (0x008, 2), (0x00C, 1), (0x010, 0x80000001), (0x014, 5), (0x018, 6), (0x01C, 7),
      (0x020, 8), (0x024, 9), (0x028, 10), (0x004, 0x02062144)].map (fun p : Nat × Word =>
      after (step { State.reset with
          pending := [.readWord p.1], kSize := 2, rkSize := 1, iter := 0x80000001, iLen := 5, oLen := 6,
          pwLen := 7, sLen := 8, kmLen := 9, ivnLen := 10,
          status := { Status.reset with err := true, errKind := 4, cause := 0x21, ivV := true,
                                        rkV := true, advL := true } })
        fun t => decide (t.readData = some (.word p.2))) = List.replicate 11 (some true) ∧
    [(0x05F, 0x11), (0x06F, 0x22), (0x07F, 0x33), (0x08F, 0x44), (0x0EF, 0x55), (0x1EF, 0x66),
      (0x2BF, 0x77), (0x2100F, 0x88)].map (fun p : Nat × Byte =>
      after (step { State.reset with
          pending := [.readByte p.1], key := setByte State.reset.key 31 0x11,
          ivr := setByte State.reset.ivr 15 0x22, blk := setByte State.reset.blk 15 0x33,
          hdr := setByte State.reset.hdr 15 0x44, str := setByte State.reset.str 47 0x55,
          rks := setByte State.reset.rks 239 0x66, mem := [(0x2BF, 0x77), (0x2100F, 0x88)] })
        fun t => decide (t.readData = some (.byte p.2))) = List.replicate 8 (some true) := by
  decide +kernel

/-- `ReservedAndReadOnlyAccesses`: a reserved word and byte offset, and the edges of the read-only windows. -/
theorem test_witness_reserved :
    (HostEvent.readWord 0x02C).wellFormed 4096 = true ∧ atWordRegister 0x02C = false ∧
    (HostEvent.readWord 0x000).wellFormed 4096 = true ∧
    (HostEvent.readByte 0x090).wellFormed 4096 = true ∧ inByteWindow 4096 0x090 = false ∧
    (HostEvent.writeWord 0x0B0 1).wellFormed 4096 = true ∧ atWordRegister 0x0B0 = false ∧
    (HostEvent.writeWord 0x018 1).wellFormed 4096 = true ∧
    (HostEvent.writeByte 0x1EF 1).wellFormed 4096 = true ∧
    (HostEvent.writeByte 0x1F0 1).wellFormed 4096 = true ∧ inByteWindow 4096 0x1F0 = false ∧
    (HostEvent.writeByte 0x2100F 1).wellFormed 4096 = true ∧
    (HostEvent.writeByte 0x21010 1).wellFormed 4096 = true ∧ inByteWindow 4096 0x21010 = false := by
  decide +kernel

/-- `ReadsAnswerAndChangeNothing`, `WordWritesOnlyStore`, `KeyAndSizeWritesInvalidate`, `IvrAndBlkWrites`, `BufferWritesOnlyStore`: a core that is
not busy, before any event, and the last byte of each buffer. -/
theorem test_witness_host_events (e : HostEvent) :
    (hostDoes [e]).pending = e :: [] ∧ (hostDoes [e]).ready ∧
    (hostDoes [e]).bufCap = 4096 ∧ Config.legalBufCap 4096 ∧ State.reset.mem.wf ∧
    4095 < Window.ibuf.size 4096 ∧
    63 < Window.salt.size 4096 ∧ 63 < Window.ivnib.size 4096 ∧ 63 < Window.kmat.size 4096 ∧
    255 < Window.pwd.size 4096 :=
  ⟨rfl, ⟨rfl, rfl⟩, rfl, by decide, by decide, by decide, by decide, by decide, by decide, by decide⟩

/-- `KexpResultAndErrors`: a size and a key; no size; a size and no key. -/
theorem test_witness_kexp :
    keySizeOfCode (keyed .k256 keyV1).kSize = some .k256 ∧ (keyed .k256 keyV1).status.keyV = true ∧
    State.reset.kSize = 3 ∧ State.reset.status.keyV = false ∧
    ({ State.reset with kSize := 0 }).kSize ≠ 3 ∧ ({ State.reset with kSize := 0 }).status.keyV = false := by
  decide +kernel

/-- `ScheduleRecurrence`: the first and last word of each range, the branch of 256-bit keys, the tail. -/
theorem test_witness_schedule_indices :
    3 < keyWords .k128 ∧ keyWords .k128 ≤ 4 ∧ 43 < 4 * (rounds .k128 + 1) ∧ keyWords .k256 = 8 ∧
    12 % keyWords .k256 ≠ 0 ∧ 12 % 8 = 4 ∧ 59 < 4 * (rounds .k256 + 1) ∧
    16 * (rounds .k128 + 1) ≤ 176 ∧ 16 * (rounds .k256 + 1) ≤ 240 := by
  decide

/-- `ScheduleRecurrence`, its last clause: two keys that differ in their 17th byte only. -/
theorem test_witness_key_tail :
    (∀ i, i < keyBytes .k128 →
      byteAt (vecOf 32 keyV1) i = byteAt (vecOf 32 (keyV1 ++ [0xFF])) i) ∧
    vecOf 32 keyV1 ≠ vecOf 32 (keyV1 ++ [0xFF]) := by
  decide +kernel

/-- `CipherLaws`: two contents of `RKS` that differ at 176 and above only, for a 128-bit schedule. -/
theorem test_witness_schedule_tail :
    (∀ p, p < 16 * (rounds .k128 + 1) →
      byteAt (Vector.replicate 240 (0 : Byte)) p =
        byteAt (setByte (Vector.replicate 240 (0 : Byte)) 176 0xFF) p) ∧
    byteAt (setByte (Vector.replicate 240 (0 : Byte)) 176 0xFF) 176 = 0xFF := by
  decide +kernel

/-- `BlockCommandResults`, `EncryptThenDecryptRestoresBlock` and the mode commands: a schedule of each size, and
none; with and without an IV. -/
theorem test_witness_schedules :
    (scheduled .k128 keyV1).hasSchedule .k128 ∧ (scheduled .k192 keyV1).hasSchedule .k192 ∧
    (scheduled .k256 keyV1).hasSchedule .k256 ∧ State.reset.status.rkV = false ∧
    (scheduled .k128 keyV1).hasIv .ecb ∧ ¬(scheduled .k128 keyV1).hasIv .ctr ∧
    (withIv keyV1 (scheduled .k128 keyV1)).hasIv .cbc ∧
    (withIv keyV1 (scheduled .k128 keyV1)).hasIv .ctr ∧ ScheduleInv State.reset :=
  ⟨by decide, by decide, by decide, by decide, .inl rfl, by decide, .inr rfl, .inr rfl, rfl⟩

/-- The premise `ScheduleInv` of the errors' statements, where there is a schedule. -/
theorem test_witness_schedule_inv (ks : KeySize) (k iv : List Byte) (n : Nat) :
    ScheduleInv (withLen n (withIv iv (scheduled ks k))) ∧ ScheduleInv (withLen n (scheduled ks k)) := by
  cases ks <;> exact ⟨⟨rfl, rfl, rfl, rfl⟩, ⟨rfl, rfl, rfl, rfl⟩⟩

/-- `RowShiftsByCells`, `ColumnMixingByRows`: the last row and column, and a column's bytes. -/
theorem test_witness_cells :
    (3 < 4) ∧ 0xFF = byteAt (vecOf 16 blockV1) (4 * 3 + 3) ∧ 0xEE = byteAt (vecOf 16 blockV1) (4 * 3 + 2) ∧
    0xDD = byteAt (vecOf 16 blockV1) (4 * 3 + 1) ∧ 0xCC = byteAt (vecOf 16 blockV1) (4 * 3) := by
  decide +kernel

/-- `PadaResult`: all premises together, at lengths 1 and `BUFCAP`, with the pad and output length they give. -/
theorem test_witness_pada :
    [(false, 1), (true, 1), (false, 4096), (true, 4096)].map (fun x : Bool × Nat =>
      let s := withLen x.2 State.reset
      let p := if x.1 = true ∧ s.iLen.toNat % 16 = 0 then 0 else 16 - s.iLen.toNat % 16
      (decide s.hasPayload, p, s.iLen.toNat + p)) =
    [(true, 15, 16), (true, 15, 16), (true, 16, 4112), (true, 0, 4096)] := by
  decide +kernel

/-- `EcbAndCbcBlockEquations`, `CtrKeystreamAndCounter`, `ModeRoundTrip`, `TransformRoundTrip`: lengths at the
edges. -/
theorem test_witness_block_strings :
    (List.replicate 32 (0 : Byte)).length % 16 = 0 ∧ 1 < (List.replicate 32 (0 : Byte)).length / 16 ∧
    ([] : List Byte).length % 16 = 0 ∧ 16 < (List.replicate 17 (0 : Byte)).length ∧
    (0 : Nat) < 2 ^ 128 ∧ 2 ^ 128 - 1 < 2 ^ 128 ∧ ([0x61] : List Byte) ≠ [] := by
  decide +kernel

/-- The payload lengths of the buffer commands: 1, 16, `BUFCAP`; 0 and `BUFCAP + 1`, which they refuse; 15 and 17,
which whole blocks refuse. -/
theorem test_witness_payload_lengths :
    (withLen 1 State.reset).hasPayload ∧ (withLen 16 State.reset).hasPayload ∧
    (withLen 4096 State.reset).hasPayload ∧ (withLen 4096 State.reset).iLen.toNat % 16 = 0 ∧
    (withLen 0 State.reset).iLen.toNat = 0 ∧
    (withLen 4097 State.reset).bufCap < (withLen 4097 State.reset).iLen.toNat ∧
    (withLen 15 State.reset).iLen.toNat < 16 ∧ (withLen 15 State.reset).hasPayload ∧
    16 < (withLen 17 State.reset).iLen.toNat ∧ (withLen 17 State.reset).iLen.toNat % 16 ≠ 0 := by
  decide +kernel

/-- `ApplyTwiceIsApplyOnce`, `XformOutputLength`: commands that complete, in each mode, direction and policy the
output length depends on. -/
theorem test_witness_buffer_commands_complete :
    [ Instr.apply (some .ctr) .encrypt, .apply (some .ecb) .decrypt, .xform (some .ctr) .encrypt false,
      .xform (some .ecb) .encrypt false, .xform (some .cbc) .encrypt true,
      .xform (some .cbc) .decrypt true ].map
      (fun i => after (exec i (withLen 16 (withIv keyV1 (scheduled .k128 keyV1))))
        fun t => t.status.done) = List.replicate 6 (some true) := by
  decide +kernel

/-- `ApplyResult`, `XformResult`: all premises together, at lengths 1 (CTR, or encryption by `XFORM`), 16 and
`BUFCAP`. -/
theorem test_witness_mode_results :
    let s (n : Nat) := withLen n (withIv keyV1 (scheduled .k192 keyV1))
    (s 1).hasSchedule .k192 ∧ (s 1).hasIv .ctr ∧ (s 1).hasPayload ∧ (s 16).hasSchedule .k192 ∧
    (s 16).hasIv .cbc ∧ (s 16).hasPayload ∧ (s 16).iLen.toNat % 16 = 0 ∧ (s 4096).hasPayload ∧
    (s 4096).hasIv .cbc ∧ (s 4096).hasSchedule .k192 ∧ (s 4096).iLen.toNat % 16 = 0 :=
  ⟨by decide, .inr rfl, by decide, by decide, .inr rfl, by decide, by decide, by decide, .inr rfl,
    by decide, by decide⟩

/-- `XformResult`, decryption that takes a pad off: all premises together, and the output. -/
theorem test_witness_xform_unpads :
    let s := withPayload (hex 16 0x1db3bc184460ccf16eebb7084355aa2c) (scheduled .k128 keyV1)
    s.hasSchedule .k128 ∧ s.hasPayload ∧ s.iLen.toNat % 16 = 0 ∧ s.bufCap = 4096 ∧
    padRemove false (modeRun .ecb .decrypt s.rks (rounds .k128) s.ivr s.payload) =
      .ok (hex 14 0x00112233445566778899aabbccdd) := by
  decide +kernel

/-- `XformOutputLength`, its last clause: that decryption completes, and the last decrypted byte is 2. -/
theorem test_witness_xform_length :
    let s := withPayload (hex 16 0x1db3bc184460ccf16eebb7084355aa2c) (scheduled .k128 keyV1)
    after (exec (.xform (some .ecb) .decrypt false) s) (fun t => (t.status.done, t.oLen)) =
      some (true, 14) ∧
    ((modeRun .ecb .decrypt s.rks (rounds .k128) s.ivr s.payload).getLastD 0).toNat = 2 := by
  decide +kernel

/-- `XformErrors`, its last clause: V1's ciphertext decrypts to a last byte `ff`. -/
theorem test_witness_xform_bad_count :
    let s := withPayload (hex 16 0x69c4e0d86a7b0430d8cdb78070b4c55a) (scheduled .k128 keyV1)
    s.hasSchedule .k128 ∧ s.hasPayload ∧ s.iLen.toNat % 16 = 0 ∧
    ((modeRun .ecb .decrypt s.rks (rounds .k128) s.ivr s.payload).getLastD 0).toNat = 255 := by
  decide +kernel

/-- `XformDecryptsWhatItEncrypted`: the first state, its run in each mode, and a second
state built from the output. -/
theorem test_witness_xform_pair (t : State) :
    let s := withPayload [0x61] (withIv keyV1 (scheduled .k128 keyV1))
    let s' := withPayload (t.mem.bytes 0x20000 t.oLen.toNat) s
    s.bufCap = 4096 ∧ s'.bufCap = 4096 ∧
    [Mode.ctr, .ecb, .cbc].map (fun m => after (exec (.xform (some m) .encrypt false) s)
      fun u => (u.status.done, u.oLen)) = [some (true, 1), some (true, 16), some (true, 16)] ∧
    s'.status.rkV = true ∧ s'.rkSize = s.rkSize ∧ s'.rks = s.rks ∧ s'.ivr = s.ivr ∧
    s'.status.ivV = s.status.ivV ∧ s'.iLen = t.oLen ∧
    s'.payload = t.mem.bytes 0x20000 t.oLen.toNat := by
  refine ⟨rfl, rfl, by decide +kernel, rfl, rfl, rfl, rfl, rfl, by simp [withPayload], ?_⟩
  have h := Memory.bytes_write (withPayload [0x61] (withIv keyV1 (scheduled .k128 keyV1))).mem 0x10000
    (t.mem.bytes 0x20000 t.oLen.toNat)
  rw [Memory.bytes_length] at h
  simpa [withPayload, State.payload, ibufBase] using h

/-- `PaddingLaws`: a pad of 1 and of 16, and counts 0 and 17. -/
theorem test_witness_pads :
    (1 : Byte).toNat = 1 ∧ ([] : List Byte).length = (1 : Byte).toNat - 1 ∧ (16 : Byte).toNat = 16 ∧
    (List.replicate 15 (0xEE : Byte)).length = (16 : Byte).toNat - 1 ∧ (0 : Byte).toNat = 0 ∧
    16 < (17 : Byte).toNat ∧ keyV1.length % 16 = 0 ∧ (hex 3 0).length % 16 ≠ 0 := by
  decide +kernel

/-- `PadrResult`, `PaddingCommandErrors`: last bytes 1 and 16, and 0 and 17. -/
theorem test_witness_last_bytes :
    [1, 16, 0, 17].map (fun p : Nat =>
      let s := withPayload (hex 16 p) State.reset
      (decide s.hasPayload, s.iLen.toNat % 16, (s.mem.read (0x10000 + (s.iLen.toNat - 1))).toNat)) =
    [(true, 0, 1), (true, 0, 16), (true, 0, 0), (true, 0, 17)] := by
  decide +kernel

/-- `DrawResult`, `DivResult`, `DerivationErrors`: the edges of the length registers, and commands that complete for
`DerivationIsIdempotent`. -/
theorem test_witness_lengths :
    [1, 16, 17, 24, 25, 64].map (fun n => after (exec (.draw none false)
      { State.reset with kmLen := n }) fun t => (t.status.done, t.kSize)) =
      [some (true, 0), some (true, 0), some (true, 1), some (true, 1), some (true, 2), some (true, 2)] ∧
    [0, 1, 64].map (fun n => after (exec (.div false false)
      { State.reset with ivnLen := n }) fun t => t.status.done) = [some true, some true, some true] ∧
    (65 : Word).toNat = 65 ∧ (64 : Word).toNat ≤ 64 := by
  decide +kernel

/-- `StretchResult`, `DerivationErrors`, `DerivationIsIdempotent`: lengths that pass, at both edges; the 48 bytes
PBKDF2 gives are some `T`; the bridge answers 48 bytes or rejects, which no proof can know. -/
theorem test_witness_stretch (p s : List Byte) (c : Nat) :
    (1 : Word).toNat ≠ 0 ∧ (256 : Word).toNat ≤ 256 ∧ (0 : Word).toNat ≤ 64 ∧ (64 : Word).toNat ≤ 64 ∧
    (∃ T : Vector Byte 48, T = vecOf 48 (pbkdf2 p s c 48)) ∧
    ((∃ T, Config.argon2id p s = some T) ∨ Config.argon2id p s = none) := by
  refine ⟨by decide, by decide, by decide, by decide, ⟨_, rfl⟩, ?_⟩
  cases Config.argon2id p s with
  | none => exact .inr rfl
  | some T => exact .inl ⟨T, rfl⟩

/-- `PbkdfGives48Bytes`: a count above 0, and the `K0` of keys of 64 and of 65 bytes. -/
theorem test_witness_hmac_keys :
    1 ≤ (1 : Nat) ∧ ¬64 < (List.replicate 64 (0x0B : Byte)).length ∧
    64 < (List.replicate 65 (0x0B : Byte)).length ∧
    hmacKey (List.replicate 64 0x0B) = List.replicate 64 0x0B ∧
    hmacKey (List.replicate 65 0x0B) =
      sha256 (List.replicate 65 0x0B) ++ List.replicate 32 0x00 := by
  decide +kernel

/-- `IterationFloor`, `StretchResult`: `STRETCH pbkdf2` that completes with a request of 0 and of 1000. -/
theorem test_witness_floor :
    (0 : Word).toNat ≤ 1000 ∧ (1000 : Word).toNat ≤ 1000 ∧
    [0, 1000].map (fun n => after (exec (.stretch none .pbkdf2)
      { State.reset with pwLen := 1, iter := n }) fun t => t.status.done) = [some true, some true] := by
  decide +kernel

/-- `HdrResultAndErrors`: each of its four premises. -/
theorem test_witness_hdr :
    ({ State.reset with sLen := 8 }).sLen = 8 ∧ State.reset.sLen ≠ 8 ∧
    (withIv keyV1 State.reset).status.ivV = true ∧ State.reset.status.ivV = false := by
  decide

/-- `ValidityFlagsChangeOnlyAsListed`: events that set and that clear each flag. -/
theorem test_witness_flags_change :
    [ (HostEvent.writeWord 0x000 0x1, keyed .k128 keyV1), (.writeByte 0x05F 0, keyed .k128 keyV1),
      (.writeWord 0x008 0, scheduled .k128 keyV1), (.writeByte 0x040 0, State.reset),
      (.writeByte 0x06F 0, State.reset), (.writeWord 0x000 0x9, State.reset),
      (.writeWord 0x000 0xD, withIv keyV1 (scheduled .k128 keyV1)),
      (.reset, withIv keyV1 (scheduled .k128 keyV1)) ].map
      (fun p => after (step { p.2 with pending := [p.1] })
        fun t => (t.status.keyV, t.status.ivV, t.status.rkV)) =
    [some (true, false, true), some (true, false, false), some (true, false, false),
      some (true, false, false), some (false, true, false), some (false, true, false),
      some (false, false, false), some (false, false, false)] := by
  decide +kernel

/-- `CipherUsesScheduleOfPresentKey`: a state of the invariant in which each of the four commands that use the
schedule completes. -/
theorem test_witness_uses_schedule :
    let s := withLen 16 (withIv keyV1 (scheduled .k192 keyV1))
    s.Inv ∧
    [Instr.encb, .decb, .apply (some .cbc) .decrypt, .apply (some .ctr) .encrypt,
      .xform (some .ecb) .encrypt false, .xform (some .cbc) .decrypt true].map
      (fun i => after (exec i s) fun t => t.status.done) = List.replicate 6 (some true) :=
  ⟨⟨by decide, ⟨by decide +kernel, by decide +kernel⟩, by decide, ⟨rfl, rfl, rfl, rfl⟩, by decide⟩,
    by decide +kernel⟩

/-- `StepKeepsInvariant`, `CipherUsesScheduleOfPresentKey`: a state far from reset that meets the invariant and
whose step, and whose `ENCB`, answer a next state. -/
theorem test_witness_inv :
    State.Inv { withPayload [0x61] (withIv keyV1 (scheduled .k256 keyV1)) with
      pending := [.writeByte 0x040 0] } ∧
    after (step { withPayload [0x61] (withIv keyV1 (scheduled .k256 keyV1)) with
      pending := [.writeByte 0x040 0] }) (fun t => (t.rkSize, t.status.rkV)) = some (3, false) ∧
    after (exec .encb (withIv keyV1 (scheduled .k256 keyV1))) (fun t => t.status.done) = some true := by
  refine ⟨⟨by decide, ⟨by decide +kernel, by decide +kernel⟩, by decide, ⟨rfl, rfl, rfl, rfl⟩, by decide⟩, ?_, ?_⟩
  · decide +kernel
  · decide +kernel

end Sys2Proof.Tests
end

section
/-! SUPPORT. The host's accesses: what the address map gives for each register and window, and what an access that
answers did (`20_memory.md` R40 to R46). -/

namespace Sys2Proof.Machine

/-! ### The address map -/

/-- Each word register stands at its own offset (R46). -/
@[simp] theorem wordTarget_offset (cap : Nat) (r : WordReg) : wordTarget cap r.offset = .word r := by
  cases r <;> rfl

theorem offset_of_wordTarget {cap off : Nat} {r : WordReg} (h : wordTarget cap off = .word r) :
    off = r.offset := by
  unfold wordTarget wordRegAt at h
  split at h
  · cases h
  · split at h
    · cases h
    · split at h
      · rename_i r' hr
        cases h
        have hoff := List.find?_some (p := fun r : WordReg => r.offset == off) hr
        exact (eq_of_beq hoff).symm
      · split at h <;> cases h

/-- The windows stand in rising order (R46); only `IBUF` and `OBUF` need a legal `BUFCAP`. -/
theorem windows_in_order {cap : Nat} :
    Window.all.Pairwise fun a b =>
      (b = .ibuf ∨ b = .obuf → Config.legalBufCap cap) → a.base + a.size cap ≤ b.base := by
  simp [Window.all, Window.base, Window.size, saltBase, ivnibBase, kmatBase, pwdBase, ibufBase, obufBase,
    Config.saltCap, Config.ivnCap, Config.kmCap, Config.pwCap]
  -- what is left is that `IBUF` ends before `OBUF`
  intro _ hcap
  omega

/-- The windows do not overlap: each byte of a window lies in that window and no other. -/
theorem windowAt_base_add {cap i : Nat} {w : Window} (hi : i < w.size cap)
    (hcap : w = .ibuf ∨ w = .obuf → Config.legalBufCap cap) : windowAt cap (w.base + i) = some w := by
  obtain ⟨as, bs, hsplit⟩ := List.append_of_mem (show w ∈ Window.all by cases w <;> decide)
  have horder := windows_in_order (cap := cap)
  rw [hsplit, List.pairwise_append] at horder
  obtain ⟨-, -, hbefore⟩ := horder
  refine List.find?_eq_some_iff_append.2 ⟨by simpa using hi, as, bs, hsplit, fun a ha => ?_⟩
  have := hbefore a ha w (by simp) hcap
  simp only [Bool.not_eq_true', Bool.and_eq_false_iff, decide_eq_false_iff_not]
  omega

theorem window_end_le {cap : Nat} {w : Window} (hcap : w = .ibuf ∨ w = .obuf → Config.legalBufCap cap) :
    w.base + w.size cap ≤ 0x30000 := by
  cases w
  case ibuf => have := hcap (.inl rfl); simp only [Window.base, Window.size, ibufBase]; omega
  case obuf => have := hcap (.inr rfl); simp only [Window.base, Window.size, obufBase]; omega
  all_goals exact Nat.le_of_ble_eq_true rfl

theorem byteTarget_base_add {cap i : Nat} {w : Window} (hi : i < w.size cap)
    (hcap : w = .ibuf ∨ w = .obuf → Config.legalBufCap cap) : byteTarget cap (w.base + i) = .byte w i := by
  have := window_end_le hcap
  rw [byteTarget, if_neg (by omega), windowAt_base_add hi hcap]
  simp

theorem byteTarget_eq_byte {cap off i : Nat} {w : Window} (h : byteTarget cap off = .byte w i) :
    off = w.base + i ∧ i < w.size cap := by
  unfold byteTarget at h
  split at h
  · cases h
  · split at h
    · rename_i w' hw
      cases h
      have := List.find?_some hw
      simp only [Bool.and_eq_true, decide_eq_true_eq] at this
      omega
    · split at h <;> cases h

/-! ### What an access that answers did -/

theorem performReadWord_next {off : Nat} {s t : State} (h : performEvent (.readWord off) s = .next t) :
    ∃ d, t = { s.observed off with readData := some d } :=
  readTarget_next h

theorem performReadByte_next {off : Nat} {s t : State} (h : performEvent (.readByte off) s = .next t) :
    ∃ d, t = { s with readData := some d } :=
  readTarget_next h

/-- A 4-byte write that answers was ignored, or wrote a word register. -/
theorem performWriteWord_next {off : Nat} {v : Word} {s t : State}
    (h : performEvent (.writeWord off v) s = .next t) :
    t = s ∨ ∃ r : WordReg, off = r.offset ∧ writeReg r v s = .next t := by
  change writeWordTarget (wordTarget s.bufCap off) v s = .next t at h
  cases hg : wordTarget s.bufCap off with
  | outside => rw [hg] at h; cases h
  | illFormed => rw [hg] at h; cases h
  | word r => rw [hg] at h; exact .inr ⟨r, offset_of_wordTarget hg, h⟩
  | byte w i => rw [hg] at h; cases h
  | reserved => rw [hg] at h; exact .inl (Host.Outcome.next.inj h).symm

/-- A 1-byte write that answers was ignored, or wrote a byte of a window. -/
theorem performWriteByte_next {off : Nat} {b : Byte} {s t : State}
    (h : performEvent (.writeByte off b) s = .next t) :
    t = s ∨ ∃ (w : Window) (i : Nat), off = w.base + i ∧ i < w.size s.bufCap ∧ t = s.writeWindow w i b := by
  change writeByteTarget (byteTarget s.bufCap off) b s = .next t at h
  cases hg : byteTarget s.bufCap off with
  | outside => rw [hg] at h; cases h
  | illFormed => rw [hg] at h; cases h
  | word r => rw [hg] at h; cases h
  | byte w i =>
    rw [hg] at h
    obtain ⟨hoff, hi⟩ := byteTarget_eq_byte hg
    exact .inr ⟨w, i, hoff, hi, (Host.Outcome.next.inj h).symm⟩
  | reserved => rw [hg] at h; exact .inl (Host.Outcome.next.inj h).symm

/-- A write of `CMD` that answers raised on an illegal word, or ran its command. -/
theorem runWord_next {w : Word} {s t : State} (h : runWord w s = .next t) :
    (∃ c, t = raise c s.cmdWritten.started) ∨ ∃ i, decode w = .ok i ∧ exec i s.cmdWritten = .next t := by
  unfold runWord at h
  split at h
  · exact .inr ⟨_, ‹_›, h⟩
  · exact .inl ⟨_, (Host.Outcome.next.inj h).symm⟩

/-- What a command that answers did: its body's results with `DONE`, or an error entry. -/
theorem exec_next {i : Instr} {s t : State} (h : exec i s = .next t) :
    (∃ u, bodyOf i s.started = .ok u ∧ t = u.completed) ∨ ∃ c, t = raise c s.started := by
  rw [exec_eq] at h
  exact (runCommand_next h).imp_right fun ⟨c, _, hc⟩ => ⟨c, hc⟩

/-! ### A step of a ready core -/

theorem step_readReg {s : State} {rest : List HostEvent} {r : WordReg} (hs : s.ready)
    (h : s.pending = .readWord r.offset :: rest) :
    step s = .next { s with pending := rest, readData := some (.word (s.readReg r)) } := by
  rw [step_performs h hs.1 hs.2, performEvent,
    observed_of_not_mustPoll r.offset (s := { s with pending := rest }) hs.2, wordTarget_offset]
  cases r <;> rfl

theorem step_readWindow {s : State} {rest : List HostEvent} {w : Window} {i : Nat} (hs : s.ready)
    (hi : i < w.size s.bufCap) (hcap : w = .ibuf ∨ w = .obuf → Config.legalBufCap s.bufCap)
    (h : s.pending = .readByte (w.base + i) :: rest) :
    step s = .next { s with pending := rest, readData := some (.byte (s.readWindow w i)) } := by
  rw [step_performs h hs.1 hs.2, performEvent, byteTarget_base_add hi hcap]
  cases w <;> rfl

theorem step_writeReg {s : State} {rest : List HostEvent} {r : WordReg} {v : Word} (hs : s.ready)
    (h : s.pending = .writeWord r.offset v :: rest) : step s = writeReg r v { s with pending := rest } := by
  rw [step_performs h hs.1 hs.2, performEvent, wordTarget_offset]
  rfl

theorem step_writeWindow {s : State} {rest : List HostEvent} {w : Window} {i : Nat} {b : Byte}
    (hs : s.ready) (hi : i < w.size s.bufCap)
    (hcap : w = .ibuf ∨ w = .obuf → Config.legalBufCap s.bufCap)
    (h : s.pending = .writeByte (w.base + i) b :: rest) :
    step s = .next ({ s with pending := rest }.writeWindow w i b) := by
  rw [step_performs h hs.1 hs.2, performEvent, byteTarget_base_add hi hcap]
  rfl

end Sys2Proof.Machine
end

section
/-! SUPPORT. The invariant of the core (`Safety.lean`): what each named operation needs to keep it, what every
command's results keep of it, and from these that every step keeps it. -/

namespace Sys2Proof.Machine

/-- The invariant but for the outcome fields of `STATUS`, which a command has not set yet while it works. -/
structure State.DataInv (s : State) : Prop where
  cap : CapInv s
  mem : MemInv s
  schedule : ScheduleInv s
  output : OutputInv s

theorem inv_iff {s : State} : s.Inv ↔ s.DataInv ∧ StatusInv s.status :=
  ⟨fun ⟨hc, hm, hst, hsch, ho⟩ => ⟨⟨hc, hm, hsch, ho⟩, hst⟩,
    fun ⟨⟨hc, hm, hsch, ho⟩, hst⟩ => ⟨hc, hm, hst, hsch, ho⟩⟩

/-- The outcome fields of `STATUS` while a command works (R50): no error yet, and the advisories never both (R25). -/
structure Status.Working (st : Status) : Prop where
  err : st.err = false
  errKind : st.errKind = 0
  cause : st.cause = 0
  advisories : ¬(st.advS = true ∧ st.advL = true)

theorem Status.started_working (st : Status) : st.started.Working := ⟨rfl, rfl, rfl, nofun⟩

/-- Material is not both shorter and longer than wanted (R25). -/
theorem Status.Working.advise {st : Status} (q : Bool) (n want : Nat) (h : st.Working) :
    (st.advise q n want).Working :=
  ⟨h.err, h.errKind, h.cause, by
    simp only [Status.advise_advS, Status.advise_advL, Bool.and_eq_true, decide_eq_true_eq]
    omega⟩

theorem Status.Working.completed {st : Status} (h : st.Working) : StatusInv st.completed := by
  refine ⟨rfl, ?_, fun _ => ⟨h.errKind, h.cause⟩, ?_, h.advisories, fun _ => rfl⟩
  · simp [h.err]
  · simp [h.err]

theorem Cause.mem_all (c : Cause) : c ∈ Cause.all := by
  cases c <;> decide

/-- Error entry leaves a row of R201 in `STATUS`, and no advisory. -/
theorem statusInv_raised_started (c : Cause) (st : Status) : StatusInv (st.started.raised c) :=
  ⟨rfl, by simp, nofun, fun _ => ⟨c, c.mem_all, rfl, rfl⟩, by simp, by simp⟩

/-! ### What the named operations keep -/

/-- With `RKV = 0` and `RKSIZE = 3` nothing is asked of the schedule (R26). -/
theorem scheduleInv_of_stale {s : State} (hsize : s.rkSize = 3) (hv : s.status.rkV = false) :
    ScheduleInv s := by
  unfold ScheduleInv
  rw [hsize]
  exact hv

/-- A write keeps `MemInv` where each of its bytes lies in an operand buffer, and in `IVNIB` is a digit value. -/
theorem MemInv.write {s : State} {a : Nat} {bs : List Byte} (h : MemInv s)
    (hbuf : ∀ i, i < bs.length → inOperandBuffer s.bufCap (a + i) = true)
    (hdigit : ∀ i, i < bs.length → 0x240 ≤ a + i → a + i < 0x280 → (bs.getD i 0).toNat < 16) :
    MemInv { s with mem := s.mem.write a bs } := by
  refine ⟨Memory.write_wf a bs h.1, fun c hc => ?_⟩
  rcases Memory.mem_write hc with ⟨hold, -⟩ | ⟨hlo, hhi, hval⟩
  · exact h.2 c hold
  · obtain ⟨i, hi⟩ := Nat.exists_eq_add_of_le hlo
    have hib : i < bs.length := by omega
    rw [hval, hi, Nat.add_sub_cancel_left]
    exact ⟨hbuf i hib, fun ⟨h1, h2⟩ => hdigit i hib h1 h2⟩

/-- The operand buffers the host writes (R19, R45). -/
abbrev Window.isInput (w : Window) : Prop :=
  w = .salt ∨ w = .ivnib ∨ w = .kmat ∨ w = .pwd ∨ w = .ibuf

theorem inOperandBuffer_of_isInput {cap i : Nat} {w : Window} (hw : w.isInput) (hi : i < w.size cap) :
    inOperandBuffer cap (w.base + i) = true := by
  simp only [inOperandBuffer, Bool.or_eq_true, Bool.and_eq_true, decide_eq_true_eq]
  rcases hw with rfl | rfl | rfl | rfl | rfl <;>
    simp only [Window.base, Window.size, saltBase, ivnibBase, kmatBase, pwdBase, ibufBase,
      Config.saltCap, Config.ivnCap, Config.kmCap, Config.pwCap] at hi ⊢ <;>
    omega

theorem inOperandBuffer_obuf {cap i : Nat} (hi : i < cap + 16) : inOperandBuffer cap (obufBase + i) = true := by
  simp only [inOperandBuffer, Bool.or_eq_true, Bool.and_eq_true, decide_eq_true_eq]
  simp only [obufBase]
  omega

/-- Of the input buffers only `IVNIB` has bytes at 0x240 to 0x27F (R46). -/
theorem eq_ivnib_of_isInput {cap i : Nat} {w : Window} (hw : w.isInput) (hi : i < w.size cap)
    (hlo : 0x240 ≤ w.base + i) (hhi : w.base + i < 0x280) : w = .ivnib := by
  rcases hw with rfl | rfl | rfl | rfl | rfl
  case inr.inl => rfl
  all_goals
    simp only [Window.base, Window.size, saltBase, kmatBase, pwdBase, ibufBase,
      Config.saltCap, Config.kmCap, Config.pwCap] at hi hlo hhi
    omega

namespace State.DataInv

variable {s : State}

theorem putKey (k : Vector Byte 32) (h : s.DataInv) : (s.putKey k).DataInv :=
  ⟨h.cap, h.mem, scheduleInv_of_stale rfl rfl, h.output⟩

theorem putKSize (c : BitVec 2) (h : s.DataInv) : (s.putKSize c).DataInv :=
  ⟨h.cap, h.mem, scheduleInv_of_stale rfl rfl, h.output⟩

theorem putIvr (v : Block) (h : s.DataInv) : (s.putIvr v).DataInv :=
  ⟨h.cap, h.mem, h.schedule, h.output⟩

/-- The schedule a successful `KEXP` leaves is that of the key in place (R95, R96). -/
theorem putSchedule {ks : KeySize} (hsize : s.selectedSize = some ks) (hkey : s.status.keyV = true)
    (h : s.DataInv) : (s.putSchedule (expandKey ks s.key)).DataInv := by
  refine ⟨h.cap, h.mem, ?_, h.output⟩
  unfold ScheduleInv
  rw [State.putSchedule_rkSize, show keySizeOfCode s.kSize = some ks from hsize]
  exact ⟨rfl, hkey, rfl, rfl⟩

/-- Output that fits `OBUF` may be stored there. -/
theorem putOutput {out : List Byte} (hout : out.length ≤ s.bufCap + 16) (h : s.DataInv) :
    (s.putOutput out).DataInv := by
  refine ⟨h.cap, h.mem.write (fun i hi => ?_) (fun i _ _ _ => ?_), h.schedule, ?_⟩
  · exact inOperandBuffer_obuf (hi.trans_le hout)
  · simp only [obufBase] at *; omega
  · exact (Nat.mod_le _ _).trans hout

/-- A byte may be stored in an input buffer, in `IVNIB` a digit value. -/
theorem putMem {w : Window} {i : Nat} {b : Byte} (hw : w.isInput) (hi : i < w.size s.bufCap)
    (hdigit : w = .ivnib → b.toNat < 16) (h : s.DataInv) : (s.putMem (w.base + i) b).DataInv := by
  refine ⟨h.cap, h.mem.write (fun j hj => ?_) (fun j hj hlo hhi => ?_), h.schedule, h.output⟩
  · obtain rfl : j = 0 := by simpa using hj
    exact inOperandBuffer_of_isInput hw hi
  · obtain rfl : j = 0 := by simpa using hj
    exact hdigit (eq_ivnib_of_isInput hw hi hlo hhi)

theorem cleared (h : s.DataInv) : s.cleared.DataInv :=
  ⟨h.cap, ⟨Memory.wf_nil, nofun⟩, scheduleInv_of_stale rfl rfl, Nat.zero_le _⟩

/-- `SALTGEN`'s 8 bytes lie in `SALT`. -/
theorem saltgen {t : State} (ht : saltgenBody s = .ok t) (h : s.DataInv) : t.DataInv := by
  cases ht
  refine ⟨h.cap, h.mem.write (fun i hi => ?_) (fun i hi hlo hhi => ?_), h.schedule, h.output⟩
  · have hi : i < 8 := by simpa [State.randBytes] using hi
    exact inOperandBuffer_of_isInput (w := .salt) (.inl rfl) (hi.trans (show 8 < 64 by decide))
  · have hi : i < 8 := by simpa [State.randBytes] using hi
    simp only [saltBase] at hlo
    omega

end State.DataInv

/-! ### What a command's results keep -/

/-- What a mode gives where its payload's checks pass fits `OBUF`. -/
theorem applyBody_output_fits {m : Mode} {dir : Dir} {nr : Nat} {s : State}
    (hlen : s.iLen.toNat ≤ s.bufCap) (hw : m = .ctr ∨ s.wholeBlocksCause = none) :
    (modeRun m dir s.rks nr s.ivr s.payload).length ≤ s.bufCap + 16 := by
  rw [modeRun_length _ _ _ _ _ _ (hw.imp_right fun h => by
    rw [payload_length]; exact (wholeBlocksCause_eq_none.1 h).2), payload_length]
  omega

/-- Every command's results keep the invariant of what it works on. -/
theorem bodyOf_keeps_dataInv {i : Instr} {s t : State} (h : bodyOf i s = .ok t) (hs : s.DataInv) :
    t.DataInv := by
  cases i with
  | kexp =>
    obtain ⟨ks, hsize, hkey, rfl⟩ := kexpBody_ok h
    exact hs.putSchedule hsize hkey
  | encb =>
    obtain ⟨nr, -, rfl⟩ := encbBody_ok h
    exact ⟨hs.cap, hs.mem, hs.schedule, hs.output⟩
  | decb =>
    obtain ⟨nr, -, rfl⟩ := decbBody_ok h
    exact ⟨hs.cap, hs.mem, hs.schedule, hs.output⟩
  | apply md dir =>
    obtain ⟨m, nr, hm, hw, rfl⟩ := applyBody_ok h
    obtain ⟨-, -, -, hlen, -⟩ := modeChecks_eq_ok.1 hm
    exact hs.putOutput (applyBody_output_fits hlen hw)
  | pada np =>
    obtain ⟨hp, rfl⟩ := padaBody_ok h
    have hlen := (payloadCause_eq_none.1 hp).1
    refine hs.putOutput ?_
    rw [padAdd_length, payload_length]
    split <;> omega
  | padr np =>
    obtain ⟨hp, -, out, hout, rfl⟩ := padrBody_ok h
    have hlen := (payloadCause_eq_none.1 hp).1
    have := padRemove_length hout
    rw [payload_length] at this
    exact hs.putOutput (by omega)
  | xform md dir np =>
    obtain ⟨m, nr, hm, hw, out, hout, rfl⟩ := xformBody_ok h
    obtain ⟨-, -, -, hlen, -⟩ := modeChecks_eq_ok.1 hm
    have := transform_length hout fun h1 h2 => by
      rw [payload_length]; exact (wholeBlocksCause_eq_none.1 (hw h1 h2)).2
    rw [payload_length] at this
    exact hs.putOutput (by omega)
  | draw ks q =>
    obtain ⟨-, -, k, -, rfl⟩ := drawBody_ok h
    have := (hs.putKSize k.code).putKey
      (vecOf 32 (s.keyMaterial.take (min 32 (min s.kmLen.toNat (keyBytes k)))))
    exact ⟨this.cap, this.mem, this.schedule, this.output⟩
  | div q rnd =>
    rcases divBody_ok h with ⟨-, rfl⟩ | ⟨-, -, b, -, rfl⟩ <;>
      exact ⟨hs.cap, hs.mem, hs.schedule, hs.output⟩
  | stretch ks kdf =>
    obtain ⟨-, -, -, T, k, -, -, rfl⟩ := stretchBody_ok h
    have : State.DataInv { s with str := T } := ⟨hs.cap, hs.mem, hs.schedule, hs.output⟩
    exact ((this.putKSize k.code).putKey (keySlice T)).putIvr (ivSlice k T)
  | saltgen => exact hs.saltgen h
  | hdr fr =>
    rcases hdrBody_ok h with ⟨-, -, rfl⟩ | ⟨-, -, rfl⟩ <;>
      exact ⟨hs.cap, hs.mem, hs.schedule, hs.output⟩
  | clr =>
    cases h
    exact hs.cleared

/-- No command's results touch the outcome, but for the advisories of `DRAW` and `DIV`. -/
theorem bodyOf_keeps_working {i : Instr} {s t : State} (h : bodyOf i s = .ok t)
    (hs : s.status.Working) : t.status.Working := by
  cases i with
  | kexp =>
    obtain ⟨ks, -, -, rfl⟩ := kexpBody_ok h
    exact ⟨hs.err, hs.errKind, hs.cause, hs.advisories⟩
  | encb =>
    obtain ⟨nr, -, rfl⟩ := encbBody_ok h
    exact hs
  | decb =>
    obtain ⟨nr, -, rfl⟩ := decbBody_ok h
    exact hs
  | apply md dir =>
    obtain ⟨m, nr, -, -, rfl⟩ := applyBody_ok h
    exact hs
  | pada np =>
    obtain ⟨-, rfl⟩ := padaBody_ok h
    exact hs
  | padr np =>
    obtain ⟨-, -, out, -, rfl⟩ := padrBody_ok h
    exact hs
  | xform md dir np =>
    obtain ⟨m, nr, -, -, out, -, rfl⟩ := xformBody_ok h
    exact hs
  | draw ks q =>
    obtain ⟨-, -, k, -, rfl⟩ := drawBody_ok h
    exact .advise _ _ _ ⟨hs.err, hs.errKind, hs.cause, hs.advisories⟩
  | div q rnd =>
    rcases divBody_ok h with ⟨-, rfl⟩ | ⟨-, -, b, -, rfl⟩
    · exact ⟨hs.err, hs.errKind, hs.cause, hs.advisories⟩
    · exact .advise _ _ _ ⟨hs.err, hs.errKind, hs.cause, hs.advisories⟩
  | stretch ks kdf =>
    obtain ⟨-, -, -, T, k, -, -, rfl⟩ := stretchBody_ok h
    exact ⟨hs.err, hs.errKind, hs.cause, hs.advisories⟩
  | saltgen =>
    cases h
    exact hs
  | hdr fr =>
    rcases hdrBody_ok h with ⟨-, -, rfl⟩ | ⟨-, -, rfl⟩ <;> exact hs
  | clr =>
    cases h
    exact ⟨rfl, rfl, rfl, nofun⟩

/-! ### What a step keeps -/

theorem inv_raise_started (c : Cause) {s : State} (h : s.Inv) : (raise c s.started).Inv := by
  obtain ⟨hd, -⟩ := inv_iff.1 h
  exact inv_iff.2 ⟨⟨hd.cap, hd.mem, hd.schedule, hd.output⟩, statusInv_raised_started c s.status⟩

theorem exec_keeps_inv {i : Instr} {s t : State} (h : exec i s = .next t) (hs : s.Inv) : t.Inv := by
  rcases exec_next h with ⟨u, hu, rfl⟩ | ⟨c, rfl⟩
  · obtain ⟨hd, -⟩ := inv_iff.1 hs
    have hd : s.started.DataInv := ⟨hd.cap, hd.mem, hd.schedule, hd.output⟩
    have hu' := bodyOf_keeps_dataInv hu hd
    have hw := bodyOf_keeps_working hu s.status.started_working
    exact inv_iff.2 ⟨⟨hu'.cap, hu'.mem, hu'.schedule, hu'.output⟩, hw.completed⟩
  · exact inv_raise_started c hs

theorem writeReg_keeps_inv {r : WordReg} {v : Word} {s t : State} (h : writeReg r v s = .next t)
    (hs : s.Inv) : t.Inv := by
  cases r with
  | cmd =>
    rcases runWord_next h with ⟨c, rfl⟩ | ⟨i, -, hi⟩
    · exact inv_raise_started c (s := s.cmdWritten) hs
    · exact exec_keeps_inv hi hs
  | kSize =>
    cases h
    obtain ⟨hd, hst⟩ := inv_iff.1 hs
    exact inv_iff.2 ⟨hd.putKSize _, hst⟩
  | _ => cases h; exact hs

/-- A digit value is what the low nibble of a byte is. -/
theorem lowNibble_lt (b : Byte) : (b &&& 0x0F).toNat < 16 := by
  rw [BitVec.toNat_and]
  exact Nat.lt_succ_of_le Nat.and_le_right

theorem writeWindow_keeps_inv {w : Window} {i : Nat} (b : Byte) {s : State} (hi : i < w.size s.bufCap)
    (hs : s.Inv) : (s.writeWindow w i b).Inv := by
  obtain ⟨hd, hst⟩ := inv_iff.1 hs
  cases w with
  | key => exact inv_iff.2 ⟨hd.putKey _, hst⟩
  | ivr => exact inv_iff.2 ⟨hd.putIvr _, hst⟩
  | salt => exact inv_iff.2 ⟨hd.putMem (w := .salt) (by decide) hi nofun, hst⟩
  | ivnib => exact inv_iff.2 ⟨hd.putMem (w := .ivnib) (by decide) hi fun _ => lowNibble_lt b, hst⟩
  | kmat => exact inv_iff.2 ⟨hd.putMem (w := .kmat) (by decide) hi nofun, hst⟩
  | pwd => exact inv_iff.2 ⟨hd.putMem (w := .pwd) (by decide) hi nofun, hst⟩
  | ibuf => exact inv_iff.2 ⟨hd.putMem (w := .ibuf) (by decide) hi nofun, hst⟩
  | _ => exact hs

theorem inv_cleared {s : State} (hs : s.Inv) : s.cleared.Inv :=
  inv_iff.2 ⟨(inv_iff.1 hs).1.cleared, show StatusInv Status.reset by decide⟩

theorem performEvent_keeps_inv {e : HostEvent} {s t : State} (h : performEvent e s = .next t)
    (hs : s.Inv) : t.Inv := by
  cases e with
  | readWord off =>
    obtain ⟨d, rfl⟩ := performReadWord_next h
    unfold State.observed
    split <;> exact hs
  | readByte off =>
    obtain ⟨d, rfl⟩ := performReadByte_next h
    exact hs
  | writeWord off v =>
    rcases performWriteWord_next h with rfl | ⟨r, -, hr⟩
    · exact hs
    · exact writeReg_keeps_inv hr hs
  | writeByte off b =>
    rcases performWriteByte_next h with rfl | ⟨w, i, -, hi, rfl⟩
    · exact hs
    · exact writeWindow_keeps_inv b hi hs
  | reset =>
    cases h
    exact inv_cleared (s := s) hs

/-- Settles O58: every event the host can perform keeps the invariant, and idling changes nothing. -/
theorem stepKeepsInvariant : Obligations.StepKeepsInvariant := by
  intro s t hs h
  rcases step_next h with ⟨-, rfl⟩ | ⟨e, rest, -, he⟩
  · exact hs
  · exact performEvent_keeps_inv he hs

/-- Settles O57: nothing is stored, nothing is valid, and the default `BUFCAP` is legal. -/
theorem invariantAtReset : Obligations.InvariantAtReset :=
  inv_iff.2 ⟨⟨by decide, ⟨Memory.wf_nil, nofun⟩, scheduleInv_of_stale rfl rfl, Nat.zero_le _⟩, by decide⟩

end Sys2Proof.Machine
end

section
/-! SUPPORT. Host reads and writes of a ready core settle the statements on registers and windows
(`10_state.md` R13 to R21, `20_memory.md` R41 to R46). -/

namespace Sys2Proof.Machine

/-! ### Reads -/

/-- Each bit of `STATUS` as the host reads it (R21): the fields at their places, 0 elsewhere. -/
theorem status_word_getLsbD (st : Status) {n : Nat} (hn : n < 32) :
    st.word.getLsbD n =
      if n = 0 then st.busy else if n = 1 then st.done else if n = 2 then st.err else if n = 3 then false
      else if n < 7 then st.errKind.getLsbD (n - 4) else if n = 7 then false
      else if n < 16 then st.cause.getLsbD (n - 8) else if n = 16 then st.keyV else if n = 17 then st.ivV
      else if n = 18 then st.rkV else if n < 24 then false else if n = 24 then st.advS
      else if n = 25 then st.advL else false := by
  unfold Status.word
  iterate 13 rw [BitVec.getLsbD_append]
  interval_cases n <;> simp

/-- A field of `STATUS` is read off bit by bit. -/
theorem status_word_extractLsb' (st : Status) {a w : Nat} {f : BitVec w}
    (h : ∀ i, i < w → st.word.getLsbD (a + i) = f.getLsbD i) : st.word.extractLsb' a w = f :=
  BitVec.eq_of_getLsbD_eq fun i hi => by rw [BitVec.getLsbD_extractLsb', h i hi]; simp [hi]

/-- The fields of `STATUS` in the word the host reads (R21). -/
theorem status_word_fields (st : Status) :
    st.word.getLsbD 0 = st.busy ∧ st.word.getLsbD 1 = st.done ∧ st.word.getLsbD 2 = st.err ∧
    st.word.getLsbD 3 = false ∧ st.word.extractLsb' 4 3 = st.errKind ∧ st.word.getLsbD 7 = false ∧
    st.word.extractLsb' 8 8 = st.cause ∧ st.word.getLsbD 16 = st.keyV ∧
    st.word.getLsbD 17 = st.ivV ∧ st.word.getLsbD 18 = st.rkV ∧ st.word.extractLsb' 19 5 = 0 ∧
    st.word.getLsbD 24 = st.advS ∧ st.word.getLsbD 25 = st.advL ∧ st.word.extractLsb' 26 6 = 0 := by
  have bit {n : Nat} (hn : n < 32) := status_word_getLsbD st hn
  refine ⟨bit (by decide), bit (by decide), bit (by decide), bit (by decide),
    status_word_extractLsb' st fun i hi => ?_, bit (by decide), status_word_extractLsb' st fun i hi => ?_,
    bit (by decide), bit (by decide), bit (by decide), status_word_extractLsb' st fun i hi => ?_,
    bit (by decide), bit (by decide), status_word_extractLsb' st fun i hi => ?_⟩ <;>
  · rw [bit (by omega)]
    interval_cases i <;> rfl

/-- Settles O15: each register and each byte of a window is found at its place, and a read stores its answer only. -/
theorem readsAnswerAndChangeNothing : Obligations.ReadsAnswerAndChangeNothing := by
  intro s rest hs hcap
  refine ⟨fun r h => step_readReg hs h, fun w i hi h => step_readWindow hs hi (fun _ => hcap) h, ?_, ?_, ?_, ?_⟩
  · intro off t hp h
    rcases hp with hp | hp
    · rw [step_performs hp hs.1 hs.2] at h
      obtain ⟨d, rfl⟩ := performReadWord_next h
      exact ⟨d, by rw [observed_of_not_mustPoll off (s := { s with pending := rest }) hs.2]⟩
    · rw [step_performs hp hs.1 hs.2] at h
      exact performReadByte_next h
  · intro off v hp hv
    rcases hv with ⟨rfl, rfl⟩ | ⟨rfl, rfl⟩ | ⟨rfl, rfl⟩ | ⟨rfl, rfl⟩ | ⟨rfl, rfl⟩ | ⟨rfl, rfl⟩ | ⟨rfl, rfl⟩ |
      ⟨rfl, rfl⟩ | ⟨rfl, rfl⟩ | ⟨rfl, rfl⟩
    · exact step_readReg (r := .cmd) hs hp
    · exact step_readReg (r := .kSize) hs hp
    · exact step_readReg (r := .rkSize) hs hp
    · exact step_readReg (r := .iter) hs hp
    · exact step_readReg (r := .iLen) hs hp
    · exact step_readReg (r := .oLen) hs hp
    · exact step_readReg (r := .pwLen) hs hp
    · exact step_readReg (r := .sLen) hs hp
    · exact step_readReg (r := .kmLen) hs hp
    · exact step_readReg (r := .ivnLen) hs hp
  · intro hp
    exact ⟨s.status.word, step_readReg (r := .status) hs hp, status_word_fields s.status⟩
  · intro base i b hp hb
    have hread (w : Window) (hi : i < w.size s.bufCap) (hbase : base = w.base) :
        step s = .next { s with pending := rest, readData := some (.byte (s.readWindow w i)) } :=
      step_readWindow hs hi (fun _ => hcap) (hbase ▸ hp)
    rcases hb with ⟨rfl, hi, rfl⟩ | ⟨rfl, hi, rfl⟩ | ⟨rfl, hi, rfl⟩ | ⟨rfl, hi, rfl⟩ | ⟨rfl, hi, rfl⟩ |
      ⟨rfl, hi, rfl⟩ | ⟨hm, rfl⟩
    · exact hread .key hi rfl
    · exact hread .ivr hi rfl
    · exact hread .blk hi rfl
    · exact hread .hdr hi rfl
    · exact hread .str hi rfl
    · exact hread .rks hi rfl
    rcases hm with ⟨rfl, hi⟩ | ⟨rfl, hi⟩ | ⟨rfl, hi⟩ | ⟨rfl, hi⟩ | ⟨rfl, hi⟩ | ⟨rfl, hi⟩
    · exact hread .salt hi rfl
    · exact hread .ivnib hi rfl
    · exact hread .kmat hi rfl
    · exact hread .pwd hi rfl
    · exact hread .ibuf hi rfl
    · exact hread .obuf hi rfl

/-! ### Writes -/

/-- Settles O18: the step is the named write of `KEY` or of `KSIZE`. -/
theorem keyAndSizeWritesInvalidate : Obligations.KeyAndSizeWritesInvalidate := by
  intro s rest hs
  refine ⟨fun i b hi hp => ⟨_, step_writeWindow (w := .key) hs hi nofun hp, fun j hj => ?_, rfl⟩, fun v hp => ?_⟩
  · exact (byteAt_setByte s.key i j b hj).trans (by simp only [eq_comm])
  · exact (step_writeReg (r := .kSize) hs hp).trans (by
      rw [← BitVec.setWidth_eq_extractLsb' (by decide)]; rfl)

/-- Settles O19: the step is the named write of `IVR`, or the store to `BLK`. -/
theorem ivrAndBlkWrites : Obligations.IvrAndBlkWrites := by
  intro s rest i b hs hi
  refine ⟨fun hp => ⟨_, step_writeWindow (w := .ivr) hs hi nofun hp, fun j hj => ?_, rfl⟩,
    fun hp => ⟨_, step_writeWindow (w := .blk) hs hi nofun hp, fun j hj => ?_, rfl⟩⟩
  · exact (byteAt_setByte s.ivr i j b hj).trans (by simp only [eq_comm])
  · exact (byteAt_setByte s.blk i j b hj).trans (by simp only [eq_comm])

/-- A host write of an input buffer is a store to memory, of the low nibble in `IVNIB` (R19, R45). -/
theorem writeWindow_of_isInput {w : Window} (hw : w.isInput) (i : Nat) (b : Byte) (s : State) :
    s.writeWindow w i b = s.putMem (w.base + i) (if w = .ivnib then b &&& 0x0F else b) := by
  rcases hw with rfl | rfl | rfl | rfl | rfl <;> rfl

/-- Settles O20: the step is a store of one byte, by the laws of `Memory.write`. -/
theorem bufferWritesOnlyStore : Obligations.BufferWritesOnlyStore := by
  intro s rest w i b hs hcap hw hi hp
  refine ⟨_, step_writeWindow hs hi (fun _ => hcap) hp, ?_⟩
  rw [writeWindow_of_isInput hw]
  refine ⟨?_, fun a ha => ?_, Memory.write_wf _ _, rfl⟩
  · exact Memory.read_write_inside s.mem (w.base + i) [_] 0 (by simp)
  · exact Memory.read_write_outside s.mem (w.base + i) [_] a (by rw [List.length_singleton]; omega)

/-- Settles O17: each of the six registers is found at its offset, and its write is one store. -/
theorem wordWritesOnlyStore : Obligations.WordWritesOnlyStore := by
  intro s v rest hs
  exact ⟨step_writeReg (r := .iter) hs, step_writeReg (r := .iLen) hs, step_writeReg (r := .pwLen) hs,
    step_writeReg (r := .sLen) hs, step_writeReg (r := .kmLen) hs, step_writeReg (r := .ivnLen) hs⟩

/-! ### Reset and `CLR` -/

theorem byteAt_replicate_zero (n i : Nat) : byteAt (Vector.replicate n 0) i = 0 := by
  by_cases h : i < n
  · rw [byteAt_eq_getElem _ _ h, Vector.getElem_replicate]
  · exact byteAt_of_ge _ _ (Nat.le_of_not_lt h)

@[simp] theorem readWindow_cleared (s : State) (w : Window) (i : Nat) : s.cleared.readWindow w i = 0 := by
  cases w with
  | key | ivr | blk | hdr | str | rks => exact byteAt_replicate_zero _ i
  | salt | ivnib | kmat | pwd | ibuf | obuf => rfl

theorem exec_clr (s : State) : exec .clr s = .next s.started.cleared.completed := rfl

/-- Settles O6: `CLR` leaves the cleared state with `DONE`, and the reset state is its own cleared state. -/
theorem resetAndClearValues : Obligations.ResetAndClearValues := by
  refine ⟨by decide, fun s => ⟨_, exec_clr s, show Status.reset.completed.word = 2 by decide⟩, ?_⟩
  rintro t (rfl | ⟨s, h⟩)
  · exact ⟨readWindow_cleared State.reset, rfl, rfl, rfl, rfl, rfl, rfl, rfl, rfl, rfl⟩
  · rw [exec_clr] at h
    cases h
    exact ⟨readWindow_cleared s.started, rfl, rfl, rfl, rfl, rfl, rfl, rfl, rfl, rfl⟩

end Sys2Proof.Machine
end

section
/-! SUPPORT. The validity flags `KEYV`, `IVV` and `RKV` (`10_state.md` R23, R24, R26): what each command and each event
of the host can do to them, said once. -/

namespace Sys2Proof.Machine

/-- The validity flags `KEYV`, `IVV` and `RKV`. -/
def Status.flags (st : Status) : Bool × Bool × Bool := (st.keyV, st.ivV, st.rkV)

/-- The validity flags after a command that completes (R23, R24, R26). -/
def flagsAfter (i : Instr) (st : Status) : Bool × Bool × Bool :=
  match i with
  | .kexp => (st.keyV, st.ivV, true)
  | .draw _ _ => (true, st.ivV, false)
  | .div _ _ => (st.keyV, true, st.rkV)
  | .stretch _ _ => (true, true, false)
  | .clr => (false, false, false)
  | .encb | .decb | .apply _ _ | .pada _ | .padr _ | .xform _ _ _ | .saltgen | .hdr _ => st.flags

theorem flagsAfter_started (i : Instr) (st : Status) : flagsAfter i st.started = flagsAfter i st := by
  cases i <;> rfl

theorem bodyOf_flags {i : Instr} {s t : State} (h : bodyOf i s = .ok t) :
    t.status.flags = flagsAfter i s.status := by
  cases i with
  | kexp =>
    obtain ⟨ks, -, -, rfl⟩ := kexpBody_ok h
    rfl
  | encb =>
    obtain ⟨nr, -, rfl⟩ := encbBody_ok h
    rfl
  | decb =>
    obtain ⟨nr, -, rfl⟩ := decbBody_ok h
    rfl
  | apply md dir =>
    obtain ⟨m, nr, -, -, rfl⟩ := applyBody_ok h
    rfl
  | pada np =>
    obtain ⟨-, rfl⟩ := padaBody_ok h
    rfl
  | padr np =>
    obtain ⟨-, -, out, -, rfl⟩ := padrBody_ok h
    rfl
  | xform md dir np =>
    obtain ⟨m, nr, -, -, out, -, rfl⟩ := xformBody_ok h
    rfl
  | draw ks q =>
    obtain ⟨-, -, k, -, rfl⟩ := drawBody_ok h
    rfl
  | div q rnd => rcases divBody_ok h with ⟨-, rfl⟩ | ⟨-, -, b, -, rfl⟩ <;> rfl
  | stretch ks kdf =>
    obtain ⟨-, -, -, T, k, -, -, rfl⟩ := stretchBody_ok h
    rfl
  | saltgen =>
    cases h
    rfl
  | hdr fr => rcases hdrBody_ok h with ⟨-, -, rfl⟩ | ⟨-, -, rfl⟩ <;> rfl
  | clr =>
    cases h
    rfl

/-- What an event that takes `s` to `t` did to the validity flags, by what the event was. -/
inductive FlagEffect (s t : State) : HostEvent → Prop where
  | kept (e : HostEvent) (h : t.status.flags = s.status.flags) : FlagEffect s t e
  | keyByte (i : Nat) (b : Byte) (hi : i < 32) (h : t.status.flags = (true, s.status.ivV, false)) :
      FlagEffect s t (.writeByte (0x040 + i) b)
  | ivrByte (i : Nat) (b : Byte) (hi : i < 16) (h : t.status.flags = (s.status.keyV, true, s.status.rkV)) :
      FlagEffect s t (.writeByte (0x060 + i) b)
  | kSize (v : Word) (h : t.status.flags = (s.status.keyV, s.status.ivV, false)) :
      FlagEffect s t (.writeWord 0x008 v)
  | completed (w : Word) (i : Instr) (hw : decode w = .ok i) (h : t.status.flags = flagsAfter i s.status)
      (hdone : t.status.done = true) (hsize : i = .kexp → t.rkSize = s.kSize) :
      FlagEffect s t (.writeWord 0x000 w)
  | reset (h : t.status.flags = (false, false, false)) : FlagEffect s t .reset

theorem writeReg_flagEffect {r : WordReg} {v : Word} {s t : State} (h : writeReg r v s = .next t) :
    FlagEffect s t (.writeWord r.offset v) := by
  cases r with
  | cmd =>
    rcases runWord_next h with ⟨c, rfl⟩ | ⟨i, hdec, hi⟩
    · exact .kept _ rfl
    · rcases exec_next hi with ⟨u, hu, rfl⟩ | ⟨c, rfl⟩
      · refine .completed v i hdec ((bodyOf_flags hu).trans (flagsAfter_started i s.status)) rfl ?_
        rintro rfl
        obtain ⟨ks, -, -, rfl⟩ := kexpBody_ok hu
        rfl
      · exact .kept _ rfl
  | kSize =>
    cases h
    exact .kSize v rfl
  | _ =>
    cases h
    exact .kept _ rfl

theorem writeWindow_flagEffect {w : Window} {i : Nat} (b : Byte) {s : State} (hi : i < w.size s.bufCap) :
    FlagEffect s (s.writeWindow w i b) (.writeByte (w.base + i) b) := by
  cases w with
  | key => exact .keyByte i b hi rfl
  | ivr => exact .ivrByte i b hi rfl
  | _ => exact .kept _ rfl

theorem performEvent_flagEffect {e : HostEvent} {s t : State} (h : performEvent e s = .next t) :
    FlagEffect s t e := by
  cases e with
  | readWord off =>
    obtain ⟨d, rfl⟩ := performReadWord_next h
    refine .kept _ ?_
    unfold State.observed
    split <;> rfl
  | readByte off =>
    obtain ⟨d, rfl⟩ := performReadByte_next h
    exact .kept _ rfl
  | writeWord off v =>
    rcases performWriteWord_next h with rfl | ⟨r, rfl, hr⟩
    · exact .kept _ rfl
    · exact writeReg_flagEffect hr
  | writeByte off b =>
    rcases performWriteByte_next h with rfl | ⟨w, i, rfl, hi, rfl⟩
    · exact .kept _ rfl
    · exact writeWindow_flagEffect b hi
  | reset =>
    cases h
    exact .reset rfl

/-- Settles O59: by what the event and, for a write of `CMD`, the command did to the flags. -/
theorem validityFlagsChangeOnlyAsListed : Obligations.ValidityFlagsChangeOnlyAsListed := by
  intro s t e rest ran hp h hran
  rw [step_event hp] at h
  have heff := performEvent_flagEffect (hostEvent_next h).1
  cases heff with
  | kept _ hf => simp_all [Status.flags]
  | keyByte i b hi hf =>
    refine ⟨?_, fun _ _ => .inl ⟨i, b, hi, rfl⟩, fun _ _ => .inl ⟨i, b, hi, rfl⟩, ?_, ?_⟩ <;>
      simp_all [Status.flags]
  | ivrByte i b hi hf =>
    refine ⟨?_, ?_, ?_, fun _ _ => .inl ⟨i, b, hi, rfl⟩, ?_⟩ <;> simp_all [Status.flags]
  | kSize v hf =>
    refine ⟨?_, fun _ _ => .inr (.inl ⟨v, rfl⟩), ?_, ?_, ?_⟩ <;> simp_all [Status.flags]
  | completed w i hw hf hdone hsize =>
    have hi : ran i := (hran i).2 ⟨w, rfl, hw⟩
    clear hran h hp
    cases i with
    | kexp =>
      refine ⟨fun _ _ => ⟨hi, hdone, hsize rfl⟩, ?_, ?_, ?_, ?_⟩ <;> simp_all [Status.flags, flagsAfter]
    | draw ks q =>
      refine ⟨?_, fun _ _ => .inr (.inr (.inl ⟨ks, q, hi⟩)), fun _ _ => .inr (.inl ⟨ks, q, hi⟩), ?_, ?_⟩ <;>
        simp_all [Status.flags, flagsAfter]
    | div q rnd =>
      refine ⟨?_, ?_, ?_, fun _ _ => .inr (.inl ⟨q, rnd, hi⟩), ?_⟩ <;> simp_all [Status.flags, flagsAfter]
    | stretch ks kdf =>
      refine ⟨?_, fun _ _ => .inr (.inr (.inr (.inl ⟨ks, kdf, hi⟩))),
        fun _ _ => .inr (.inr ⟨ks, kdf, hi⟩), fun _ _ => .inr (.inr ⟨ks, kdf, hi⟩), ?_⟩ <;>
        simp_all [Status.flags, flagsAfter]
    | clr =>
      refine ⟨?_, fun _ _ => .inr (.inr (.inr (.inr (.inl hi)))), ?_, ?_, fun _ => .inl hi⟩ <;>
        simp_all [Status.flags, flagsAfter]
    | _ => simp_all [Status.flags, flagsAfter]
  | reset hf =>
    refine ⟨?_, fun _ _ => .inr (.inr (.inr (.inr (.inr rfl)))), ?_, ?_, fun _ => .inr rfl⟩ <;>
      simp_all [Status.flags]

end Sys2Proof.Machine
end

section
/-! SUPPORT. The address map decides an access as the checks of R40 and R42 do (`20_memory.md`): what each
width can reach, and from it whether a ready core faults, refuses or answers. -/

namespace Sys2Proof.Machine

/-! ### The address map and the checks of R42 -/

theorem isSome_windowAt (cap off : Nat) : (windowAt cap off).isSome = inByteWindow cap off :=
  List.isSome_find?

theorem inByteWindow_iff {cap off : Nat} :
    inByteWindow cap off = true ↔ ∃ w : Window, w.base ≤ off ∧ off < w.base + w.size cap := by
  have hall (w : Window) : w ∈ Window.all := by cases w <;> decide
  rw [← isSome_windowAt, windowAt, List.find?_isSome]
  simp [hall]

/-- The first window, `KEY`, begins at 0x40 (R46). -/
theorem inByteWindow_of_lt {cap off : Nat} (h : off < 0x40) : inByteWindow cap off = false := by
  refine Bool.eq_false_iff.2 fun hw => ?_
  obtain ⟨w, hlo, -⟩ := inByteWindow_iff.1 hw
  have : 0x40 ≤ w.base := by cases w <;> decide
  omega

/-- The last window, `OBUF`, ends at 0x20000 + `BUFCAP` + 16 (R46). -/
theorem inByteWindow_of_ge {cap off : Nat} (hcap : Config.legalBufCap cap)
    (h : Window.obuf.base + Window.obuf.size cap ≤ off) : inByteWindow cap off = false := by
  refine Bool.eq_false_iff.2 fun hw => ?_
  obtain ⟨w, -, hhi⟩ := inByteWindow_iff.1 hw
  cases w <;>
    simp only [Window.base, Window.size, saltBase, ivnibBase, kmatBase, pwdBase, ibufBase, obufBase,
      Config.saltCap, Config.ivnCap, Config.kmCap, Config.pwCap] at h hhi <;>
    omega

theorem isSome_wordRegAt (off : Nat) : (wordRegAt off).isSome = atWordRegister off := by
  rw [wordRegAt, List.isSome_find?, Bool.eq_iff_iff]
  simp only [WordReg.all, WordReg.offset, List.any_cons, List.any_nil, atWordRegister, Bool.or_eq_true,
    Bool.and_eq_true, beq_iff_eq, decide_eq_true_eq, Bool.false_eq_true, or_false]
  omega

theorem atWordRegister_offset (r : WordReg) : atWordRegister r.offset = true := by
  cases r <;> decide

theorem inSpace_of_wellFormed {cap : Nat} {e : HostEvent} (h : e.wellFormed cap = true) :
    e.inSpace = true := by
  simp only [HostEvent.wellFormed, Bool.and_eq_true] at h
  obtain ⟨⟨⟨hin, -⟩, -⟩, -⟩ := h
  exact hin

theorem wellFormed_readWord_iff {cap off : Nat} :
    (HostEvent.readWord off).wellFormed cap = true ↔
      off < 0x30000 ∧ off % 4 = 0 ∧ ∀ i < 4, inByteWindow cap (off + i) = false := by
  simp [HostEvent.wellFormed, HostEvent.inSpace, HostEvent.aligned, HostEvent.noWordInWindow,
    HostEvent.noByteOfRegister, and_assoc]

theorem wellFormed_readByte_iff {cap off : Nat} :
    (HostEvent.readByte off).wellFormed cap = true ↔
      off < 0x30000 ∧ (off % 4 = 0 ∨ 0x40 ≤ off) ∧ atWordRegister off = false := by
  simp [HostEvent.wellFormed, HostEvent.inSpace, HostEvent.aligned, HostEvent.noWordInWindow,
    HostEvent.noByteOfRegister, and_assoc]

/-- What R40 and R42 say of the 4-byte accesses at `off`, by what they reach. -/
inductive WordReach (cap off : Nat) : Target → Prop where
  | outside (h : (HostEvent.readWord off).inSpace = false) : WordReach cap off .outside
  | illFormed (hin : (HostEvent.readWord off).inSpace = true)
      (h : (HostEvent.readWord off).wellFormed cap = false) : WordReach cap off .illFormed
  | word (r : WordReg) (h : (HostEvent.readWord off).wellFormed cap = true) (hr : off = r.offset) :
      WordReach cap off (.word r)
  | reserved (h : (HostEvent.readWord off).wellFormed cap = true) (hr : atWordRegister off = false) :
      WordReach cap off .reserved

theorem wordTarget_reach (cap off : Nat) : WordReach cap off (wordTarget cap off) := by
  have hreg := isSome_wordRegAt off
  unfold wordTarget
  split
  · exact .outside (decide_eq_false (by omega))
  · have hin : off < 0x30000 := by omega
    split
    · refine .illFormed (decide_eq_true hin) (Bool.eq_false_iff.2 fun h => ?_)
      obtain ⟨-, halign, -⟩ := wellFormed_readWord_iff.1 h
      contradiction
    · have halign : off % 4 = 0 := by omega
      split
      · rename_i r hr
        have hoff : off = r.offset :=
          (eq_of_beq (List.find?_some (p := fun r : WordReg => r.offset == off) hr)).symm
        have hlow : off ≤ 0x28 := by subst hoff; cases r <;> decide
        exact .word r
          (wellFormed_readWord_iff.2 ⟨hin, halign, fun i hi => inByteWindow_of_lt (by omega)⟩) hoff
      · rename_i hr
        simp only [isSome_windowAt]
        split
        · rename_i hwin
          obtain ⟨i, hi, hw⟩ := List.any_eq_true.1 hwin
          refine .illFormed (decide_eq_true hin) (Bool.eq_false_iff.2 fun h => ?_)
          obtain ⟨-, -, hnone⟩ := wellFormed_readWord_iff.1 h
          rw [hnone i (List.mem_range.1 hi)] at hw
          cases hw
        · rename_i hwin
          refine .reserved (wellFormed_readWord_iff.2 ⟨hin, halign, fun i hi => ?_⟩)
            (by rw [← hreg, hr]; rfl)
          exact Bool.eq_false_iff.2 fun hw => hwin (List.any_eq_true.2 ⟨i, List.mem_range.2 hi, hw⟩)

/-- What R40 and R42 say of the 1-byte accesses at `off`, by what they reach. -/
inductive ByteReach (cap off : Nat) : Target → Prop where
  | outside (h : (HostEvent.readByte off).inSpace = false) : ByteReach cap off .outside
  | illFormed (hin : (HostEvent.readByte off).inSpace = true)
      (h : (HostEvent.readByte off).wellFormed cap = false) : ByteReach cap off .illFormed
  | byte (w : Window) (i : Nat) (h : (HostEvent.readByte off).wellFormed cap = true)
      (hw : inByteWindow cap off = true) : ByteReach cap off (.byte w i)
  | reserved (h : (HostEvent.readByte off).wellFormed cap = true) (hw : inByteWindow cap off = false) :
      ByteReach cap off .reserved

theorem byteTarget_reach (cap off : Nat) : ByteReach cap off (byteTarget cap off) := by
  have hwin := isSome_windowAt cap off
  unfold byteTarget
  split
  · exact .outside (decide_eq_false (by omega))
  · have hin : off < 0x30000 := by omega
    split
    · rename_i w hw
      have hwin : inByteWindow cap off = true := by rw [← hwin, hw]; rfl
      have hlow : 0x40 ≤ off := by
        by_contra hlt
        rw [inByteWindow_of_lt (by omega)] at hwin
        cases hwin
      have hreg : atWordRegister off = false := by simp [atWordRegister]; omega
      exact .byte w _ (wellFormed_readByte_iff.2 ⟨hin, .inr hlow, hreg⟩) hwin
    · rename_i hw
      rw [isSome_wordRegAt]
      split
      · rename_i hbad
        refine .illFormed (decide_eq_true hin) (Bool.eq_false_iff.2 fun h => ?_)
        obtain ⟨-, halign, hreg⟩ := wellFormed_readByte_iff.1 h
        simp only [hreg, Bool.false_eq_true, or_false] at hbad
        omega
      · rename_i hgood
        have hreg : atWordRegister off = false := by
          refine Bool.eq_false_iff.2 fun hr => hgood ⟨?_, .inr hr⟩
          simp [atWordRegister] at hr
          omega
        refine .reserved (wellFormed_readByte_iff.2 ⟨hin, by omega, hreg⟩) (by rw [← hwin, hw]; rfl)

/-! ### Whether a ready core faults, refuses or answers -/

theorem exec_answers (i : Instr) (s : State) : ∃ t, exec i s = .next t := by
  rw [exec_eq]
  rcases runCommand_cases (bodyOf i) s with ⟨t, -, h⟩ | ⟨c, -, h⟩ <;> exact ⟨_, h⟩

theorem runWord_of_ok {w : Word} {i : Instr} (s : State) (h : decode w = .ok i) :
    runWord w s = exec i s.cmdWritten := by
  rw [runWord, h]

theorem runWord_answers (w : Word) (s : State) : ∃ t, runWord w s = .next t := by
  cases h : decode w with
  | ok i =>
    rw [runWord_of_ok s h]
    exact exec_answers i _
  | error c => exact ⟨_, by rw [runWord, h]⟩

theorem writeReg_answers (r : WordReg) (v : Word) (s : State) : ∃ t, writeReg r v s = .next t := by
  cases r with
  | cmd => exact runWord_answers v s
  | _ => exact ⟨_, rfl⟩

/-- How a ready core takes an event, as R40 and R42 decide it. -/
inductive Verdict (cap : Nat) (e : HostEvent) : Host.Outcome State Fault Refusal → Prop where
  | faults (h : e.inSpace = false) : Verdict cap e (.fault .outsideRegisterSpace)
  | refuses (hin : e.inSpace = true) (h : e.wellFormed cap = false) :
      Verdict cap e (.refused .illFormedAccess)
  | answers (t : State) (h : e.wellFormed cap = true) : Verdict cap e (.next t)

/-- An access that does `f` to the target of the 4-byte accesses at `off` has its verdict, if `f` stops where there is
no target and answers elsewhere. -/
theorem verdict_of_wordTarget {cap off : Nat} {e : HostEvent}
    {f : Target → Host.Outcome State Fault Refusal} (hin : e.inSpace = (HostEvent.readWord off).inSpace)
    (hwf : e.wellFormed cap = (HostEvent.readWord off).wellFormed cap)
    (hout : f .outside = .fault .outsideRegisterSpace) (hill : f .illFormed = .refused .illFormedAccess)
    (hres : ∃ t, f .reserved = .next t) (hword : ∀ r, ∃ t, f (.word r) = .next t) :
    Verdict cap e (f (wordTarget cap off)) := by
  have hg := wordTarget_reach cap off
  generalize wordTarget cap off = g at hg ⊢
  cases hg with
  | outside h => exact hout ▸ .faults (hin.trans h)
  | illFormed hin' h => exact hill ▸ .refuses (hin.trans hin') (hwf.trans h)
  | word r h =>
    obtain ⟨t, ht⟩ := hword r
    exact ht ▸ .answers t (hwf.trans h)
  | reserved h =>
    obtain ⟨t, ht⟩ := hres
    exact ht ▸ .answers t (hwf.trans h)

/-- The same for the 1-byte accesses at `off`. -/
theorem verdict_of_byteTarget {cap off : Nat} {e : HostEvent}
    {f : Target → Host.Outcome State Fault Refusal} (hin : e.inSpace = (HostEvent.readByte off).inSpace)
    (hwf : e.wellFormed cap = (HostEvent.readByte off).wellFormed cap)
    (hout : f .outside = .fault .outsideRegisterSpace) (hill : f .illFormed = .refused .illFormedAccess)
    (hres : ∃ t, f .reserved = .next t) (hbyte : ∀ w i, ∃ t, f (.byte w i) = .next t) :
    Verdict cap e (f (byteTarget cap off)) := by
  have hg := byteTarget_reach cap off
  generalize byteTarget cap off = g at hg ⊢
  cases hg with
  | outside h => exact hout ▸ .faults (hin.trans h)
  | illFormed hin' h => exact hill ▸ .refuses (hin.trans hin') (hwf.trans h)
  | byte w i h =>
    obtain ⟨t, ht⟩ := hbyte w i
    exact ht ▸ .answers t (hwf.trans h)
  | reserved h =>
    obtain ⟨t, ht⟩ := hres
    exact ht ▸ .answers t (hwf.trans h)

theorem performEvent_verdict (e : HostEvent) (s : State) : Verdict s.bufCap e (performEvent e s) := by
  cases e with
  | readWord off =>
    exact verdict_of_wordTarget (f := fun g => (s.observed off).readTarget g (.word 0)) rfl rfl rfl rfl
      ⟨_, rfl⟩ fun _ => ⟨_, rfl⟩
  | writeWord off v =>
    exact verdict_of_wordTarget (f := fun g => writeWordTarget g v s) rfl rfl rfl rfl
      ⟨_, rfl⟩ fun r => writeReg_answers r v s
  | readByte off =>
    exact verdict_of_byteTarget (f := fun g => s.readTarget g (.byte 0)) rfl rfl rfl rfl
      ⟨_, rfl⟩ fun _ _ => ⟨_, rfl⟩
  | writeByte off b =>
    exact verdict_of_byteTarget (f := fun g => writeByteTarget g b s) rfl rfl rfl rfl
      ⟨_, rfl⟩ fun _ _ => ⟨_, rfl⟩
  | reset => exact .answers _ rfl

/-- Settles O13: a ready core performs the event, and what that does is the verdict of R40 and R42 on it. -/
theorem refusesExactlyIllFormedAccesses : Obligations.RefusesExactlyIllFormedAccesses := by
  intro s e rest hp hs
  rw [step_performs hp hs.1 hs.2]
  have hv := performEvent_verdict e { s with pending := rest }
  generalize performEvent e { s with pending := rest } = o at hv ⊢
  cases hv with
  | faults hout =>
    have hill : e.wellFormed s.bufCap = false :=
      Bool.eq_false_iff.2 fun h => Bool.eq_false_iff.1 hout (inSpace_of_wellFormed h)
    simp [hout, hill]
  | refuses hin h => simp [hin, h]
  | answers t h => simp [h, inSpace_of_wellFormed h]

end Sys2Proof.Machine
end

section
/-! SUPPORT. Reserved offsets and read-only registers and windows: a read of a reserved offset answers 0, a write of any
of them is ignored (`20_memory.md` R44). -/

namespace Sys2Proof.Machine

theorem wordTarget_of_reserved {cap off : Nat} (h : (HostEvent.readWord off).wellFormed cap = true)
    (hr : atWordRegister off = false) : wordTarget cap off = .reserved := by
  have hg := wordTarget_reach cap off
  generalize wordTarget cap off = g at hg ⊢
  cases hg with
  | outside hout => cases hout.symm.trans (inSpace_of_wellFormed h)
  | illFormed _ hbad => cases h.symm.trans hbad
  | word r _ hoff =>
    rw [hoff, atWordRegister_offset] at hr
    cases hr
  | reserved => rfl

theorem byteTarget_of_reserved {cap off : Nat} (h : (HostEvent.readByte off).wellFormed cap = true)
    (hw : inByteWindow cap off = false) : byteTarget cap off = .reserved := by
  have hg := byteTarget_reach cap off
  generalize byteTarget cap off = g at hg ⊢
  cases hg with
  | outside hout => cases hout.symm.trans (inSpace_of_wellFormed h)
  | illFormed _ hbad => cases h.symm.trans hbad
  | byte _ _ _ hin => cases hw.symm.trans hin
  | reserved => rfl

section

variable {s : State} {rest : List HostEvent} {off : Nat}

theorem step_readWord_reserved (hs : s.ready) (h : (HostEvent.readWord off).wellFormed s.bufCap = true)
    (hr : atWordRegister off = false) (hp : s.pending = .readWord off :: rest) :
    step s = .next { s with pending := rest, readData := some (.word 0) } := by
  rw [step_performs hp hs.1 hs.2, performEvent,
    observed_of_not_mustPoll off (s := { s with pending := rest }) hs.2, wordTarget_of_reserved h hr]
  rfl

theorem step_readByte_reserved (hs : s.ready) (h : (HostEvent.readByte off).wellFormed s.bufCap = true)
    (hw : inByteWindow s.bufCap off = false) (hp : s.pending = .readByte off :: rest) :
    step s = .next { s with pending := rest, readData := some (.byte 0) } := by
  rw [step_performs hp hs.1 hs.2, performEvent, byteTarget_of_reserved h hw]
  rfl

theorem step_writeWord_reserved {v : Word} (hs : s.ready)
    (h : (HostEvent.writeWord off v).wellFormed s.bufCap = true) (hr : atWordRegister off = false)
    (hp : s.pending = .writeWord off v :: rest) : step s = .next { s with pending := rest } := by
  rw [step_performs hp hs.1 hs.2, performEvent, wordTarget_of_reserved h hr]
  rfl

theorem step_writeByte_reserved {b : Byte} (hs : s.ready)
    (h : (HostEvent.writeByte off b).wellFormed s.bufCap = true) (hw : inByteWindow s.bufCap off = false)
    (hp : s.pending = .writeByte off b :: rest) : step s = .next { s with pending := rest } := by
  rw [step_performs hp hs.1 hs.2, performEvent, byteTarget_of_reserved h hw]
  rfl

/-- The windows whose host writes are ignored (R44). -/
abbrev Window.isReadOnly (w : Window) : Prop :=
  w = .hdr ∨ w = .str ∨ w = .rks ∨ w = .obuf

theorem writeWindow_of_isReadOnly {w : Window} (hw : w.isReadOnly) (i : Nat) (b : Byte) (s : State) :
    s.writeWindow w i b = s := by
  rcases hw with rfl | rfl | rfl | rfl <;> rfl

theorem step_writeByte_readOnly {w : Window} {b : Byte} (hs : s.ready) (hcap : Config.legalBufCap s.bufCap)
    (hw : w.isReadOnly) (hlo : w.base ≤ off) (hhi : off < w.base + w.size s.bufCap)
    (hp : s.pending = .writeByte off b :: rest) : step s = .next { s with pending := rest } := by
  obtain ⟨i, rfl⟩ := Nat.exists_eq_add_of_le hlo
  rw [step_writeWindow hs (Nat.lt_of_add_lt_add_left hhi) (fun _ => hcap) hp, writeWindow_of_isReadOnly hw]

end

/-- Settles O16: a reserved offset is its own target, and a read-only register or window ignores the write. -/
theorem reservedAndReadOnlyAccesses : Obligations.ReservedAndReadOnlyAccesses := by
  intro s rest hs hcap
  refine ⟨fun off hp h hoff => ?_, fun off hp h hw => step_readByte_reserved hs h hw hp,
    fun off v hp h hoff => ?_, fun off b hp h hoff => ?_⟩
  · rcases hoff with rfl | hr
    · exact step_readReg (r := .cmd) hs hp
    · exact step_readWord_reserved hs h hr hp
  · rcases hoff with hr | rfl | rfl | rfl
    · exact step_writeWord_reserved hs h hr hp
    · exact step_writeReg (r := .status) hs hp
    · exact step_writeReg (r := .rkSize) hs hp
    · exact step_writeReg (r := .oLen) hs hp
  · rcases hoff with hw | ⟨hlo, hhi⟩ | ⟨hlo, hhi⟩ | ⟨hlo, hhi⟩ | hlo
    · exact step_writeByte_reserved hs h hw hp
    · exact step_writeByte_readOnly (w := .hdr) hs hcap (by decide) hlo hhi hp
    · exact step_writeByte_readOnly (w := .str) hs hcap (by decide) hlo hhi hp
    · exact step_writeByte_readOnly (w := .rks) hs hcap (by decide) hlo hhi hp
    · rcases Nat.lt_or_ge off (Window.obuf.base + Window.obuf.size s.bufCap) with hhi | hge
      · exact step_writeByte_readOnly (w := .obuf) hs hcap (by decide) hlo hhi hp
      · exact step_writeByte_reserved hs h (inByteWindow_of_ge hcap hge) hp

end Sys2Proof.Machine
end

section
/-! SUPPORT. A write of `CMD` runs its command and begins the host's wait, which only a read of `STATUS` ends
(`20_memory.md` R50 to R52, `70_reset_and_hazards.md` R226). -/

namespace Sys2Proof.Machine

/-- Settles O4: the write reaches `CMD`, which samples the word and decodes it. -/
theorem stepRunsDecodedCommand : Obligations.StepRunsDecodedCommand := by
  refine fun s => ⟨fun w i rest hp hs hdec => ?_, step_idle⟩
  rw [step_writeReg (r := .cmd) hs hp]
  exact runWord_of_ok _ hdec

/-- No command reads or ends the host's wait (R226). -/
theorem bodyOf_mustPoll {i : Instr} {s t : State} (h : bodyOf i s = .ok t) : t.mustPoll = s.mustPoll := by
  cases i with
  | kexp =>
    obtain ⟨ks, -, -, rfl⟩ := kexpBody_ok h
    rfl
  | encb =>
    obtain ⟨nr, -, rfl⟩ := encbBody_ok h
    rfl
  | decb =>
    obtain ⟨nr, -, rfl⟩ := decbBody_ok h
    rfl
  | apply md dir =>
    obtain ⟨m, nr, -, -, rfl⟩ := applyBody_ok h
    rfl
  | pada np =>
    obtain ⟨-, rfl⟩ := padaBody_ok h
    rfl
  | padr np =>
    obtain ⟨-, -, out, -, rfl⟩ := padrBody_ok h
    rfl
  | xform md dir np =>
    obtain ⟨m, nr, -, -, out, -, rfl⟩ := xformBody_ok h
    rfl
  | draw ks q =>
    obtain ⟨-, -, k, -, rfl⟩ := drawBody_ok h
    rfl
  | div q rnd => rcases divBody_ok h with ⟨-, rfl⟩ | ⟨-, -, b, -, rfl⟩ <;> rfl
  | stretch ks kdf =>
    obtain ⟨-, -, -, T, k, -, -, rfl⟩ := stretchBody_ok h
    rfl
  | saltgen =>
    cases h
    rfl
  | hdr fr => rcases hdrBody_ok h with ⟨-, -, rfl⟩ | ⟨-, -, rfl⟩ <;> rfl
  | clr =>
    cases h
    rfl

theorem exec_mustPoll {i : Instr} {s t : State} (h : exec i s = .next t) : t.mustPoll = s.mustPoll := by
  rcases exec_next h with ⟨u, hu, rfl⟩ | ⟨c, rfl⟩
  · simpa using bodyOf_mustPoll hu
  · rfl

theorem runWord_mustPoll {w : Word} {s t : State} (h : runWord w s = .next t) : t.mustPoll = true := by
  rcases runWord_next h with ⟨c, rfl⟩ | ⟨i, -, hi⟩
  · rfl
  · exact exec_mustPoll hi

/-- Of the accesses only a read of `STATUS` is allowed while the host must wait (R52, R226). -/
theorem allowedWhileBusy_eq_false {e : HostEvent} (hstatus : e ≠ .readWord 0x004) (hreset : e ≠ .reset) :
    allowedWhileBusy e = false := by
  cases e with
  | readWord off => exact beq_eq_false_iff_ne.2 fun h => hstatus (h ▸ rfl)
  | reset => exact absurd rfl hreset
  | _ => rfl

/-- A read of `STATUS` is performed in any state, and ends the wait where it answers `BUSY = 0`. -/
theorem step_readStatus {s : State} {rest : List HostEvent} (hp : s.pending = .readWord 0x004 :: rest) :
    step s = .next { s with
      pending := rest, readData := some (.word s.status.word), mustPoll := s.mustPoll && s.status.busy } := by
  rw [step_event hp]
  rfl

/-- Settles O14: the read of `STATUS` is allowed, no other access is, and every write of `CMD` begins the wait. -/
theorem busyAccessesRefused : Obligations.BusyAccessesRefused := by
  intro s e rest hp
  have hbit : s.status.word.getLsbD 0 = s.status.busy := status_word_getLsbD s.status (by decide)
  refine ⟨fun hb => ⟨?_, fun h1 h2 => ?_⟩, fun hb hm => ⟨?_, fun h1 h2 => ?_⟩, ?_⟩
  · rintro rfl
    exact ⟨by rw [step_readStatus hp, hb, Bool.and_true], hbit.trans hb⟩
  · exact (step_event hp).trans (hostEvent_of_busy (allowedWhileBusy_eq_false h1 h2) hb)
  · rintro rfl
    exact ⟨by rw [step_readStatus hp, hb, Bool.and_false], hbit.trans hb⟩
  · exact (step_event hp).trans (hostEvent_of_mustPoll (allowedWhileBusy_eq_false h1 h2) hb hm)
  · rintro w t rfl h
    rw [step_event hp] at h
    exact runWord_mustPoll (hostEvent_next h).1

end Sys2Proof.Machine
end

section
/-! SUPPORT. The command word: `encode` undoes `decode` on every word and `decode` undoes `encode` on every command, so
the words that decode are the words of the commands, and the others are illegal by name (`30_encoding.md` R60 to R68). -/

namespace Sys2Proof.Machine

/-! ### The fields of a word and of its command -/

@[simp] theorem keySizeField_keySizeOfCode (c : BitVec 2) : keySizeField (keySizeOfCode c) = c := by
  revert c
  decide

@[simp] theorem modeField_modeOfCode (c : BitVec 2) : modeField (modeOfCode c) = c := by
  revert c
  decide

@[simp] theorem bit_dirOfBit (b : Bool) : (dirOfBit b).bit = b := by
  cases b <;> rfl

@[simp] theorem bit_kdfOfBit (b : Bool) : (kdfOfBit b).bit = b := by
  cases b <;> rfl

@[simp] theorem bit_framingOfBit (b : Bool) : (framingOfBit b).bit = b := by
  cases b <;> rfl

/-- A field of a word, put back at its place, is the word masked to that place. -/
theorem extractLsb'_setWidth_shiftLeft (w : Word) (n m : Nat) :
    (w.extractLsb' n m).setWidth 32 <<< n = w &&& (BitVec.allOnes m).setWidth 32 <<< n := by
  ext k hk
  by_cases hn : k < n
  · simp [hn]
  · have hback : n + (k - n) = k := by omega
    simp [hn, hk, hback, ← BitVec.getLsbD_eq_getElem, Bool.and_comm, Bool.and_left_comm, Bool.and_assoc]

theorem bitAt_getLsbD (w : Word) (n : Nat) : bitAt (w.getLsbD n) n = w &&& bitAt true n := by
  have hbit : BitVec.ofBool (w.getLsbD n) = w.extractLsb' n 1 := by
    ext k hk
    simp [Nat.lt_one_iff.1 hk]
  rw [bitAt, hbit]
  exact extractLsb'_setWidth_shiftLeft w n 1

theorem fieldAt_extractLsb' (w : Word) (n : Nat) : fieldAt (w.extractLsb' n 2) n = w &&& fieldAt 3 n :=
  extractLsb'_setWidth_shiftLeft w n 2

/-! ### A row of the opcode table -/

@[simp] theorem instr_opcode (w : Word) (o : Opcode) : (o.instr w).opcode = o := by
  cases o <;> rfl

/-- The fields `decode` reads are the bits outside the row's mask. -/
theorem instr_fields (w : Word) (o : Opcode) : (o.instr w).fields = w &&& ~~~o.mask := by
  cases o
  case kexp | encb | decb | saltgen | clr => exact BitVec.and_zero.symm
  all_goals
    simp only [Opcode.instr, Instr.fields, keySizeField_keySizeOfCode, modeField_modeOfCode, bit_dirOfBit,
      bit_kdfOfBit, bit_framingOfBit, bitAt_getLsbD, fieldAt_extractLsb', ← BitVec.and_or_distrib_left]
    rfl

theorem setWidth_number (o : Opcode) : o.number.setWidth 32 = o.pattern := by
  cases o <;> rfl

/-- A word that matches a row is the word of the command that row reads from it. -/
theorem encode_instr {w : Word} {o : Opcode} (h : w &&& o.mask = o.pattern) : encode (o.instr w) = w :=
  calc encode (o.instr w)
    _ = o.pattern ||| w &&& ~~~o.mask := by rw [encode, instr_opcode, instr_fields, setWidth_number]
    _ = w &&& (o.mask ||| ~~~o.mask) := by rw [← h, BitVec.and_or_distrib_left]
    _ = w := by rw [BitVec.or_not_self, BitVec.and_allOnes]

/-- No row allows a 1 in bits 31:14. -/
theorem highBits_eq_zero {w : Word} {o : Opcode} (h : w &&& o.mask = o.pattern) : w.extractLsb' 14 18 = 0 :=
  calc w.extractLsb' 14 18
    _ = w.extractLsb' 14 18 &&& o.mask.extractLsb' 14 18 := by
      rw [show o.mask.extractLsb' 14 18 = BitVec.allOnes 18 by cases o <;> rfl, BitVec.and_allOnes]
    _ = o.pattern.extractLsb' 14 18 := by rw [← BitVec.extractLsb'_and, h]
    _ = 0 := by cases o <;> rfl

/-! ### The decoder -/

theorem row_of_decode {w : Word} {i : Instr} (h : decode w = .ok i) :
    ∃ o : Opcode, w &&& o.mask = o.pattern ∧ o.instr w = i := by
  unfold decode at h
  split at h
  · cases h
  · split at h
    · exact ⟨_, ‹_›, Except.ok.inj h⟩
    · cases h

theorem encode_of_decode {w : Word} {i : Instr} (h : decode w = .ok i) : encode i = w := by
  obtain ⟨o, hrow, rfl⟩ := row_of_decode h
  exact encode_instr hrow

theorem encoding_statement (i : Instr) : Laws.Encoding.Statement i := by
  cases i with
  | kexp => exact Laws.Encoding.kexp
  | encb => exact Laws.Encoding.encb
  | decb => exact Laws.Encoding.decb
  | apply md dir => exact Laws.Encoding.apply md dir
  | pada np => exact Laws.Encoding.pada np
  | padr np => exact Laws.Encoding.padr np
  | xform md dir np => exact Laws.Encoding.xform md dir np
  | draw ks q => exact Laws.Encoding.draw ks q
  | div q rnd => exact Laws.Encoding.div q rnd
  | stretch ks kdf => exact Laws.Encoding.stretch ks kdf
  | saltgen => exact Laws.Encoding.saltgen
  | hdr fr => exact Laws.Encoding.hdr fr
  | clr => exact Laws.Encoding.clr

@[simp] theorem decode_encode (i : Instr) : decode (encode i) = .ok i := by
  obtain ⟨hdec, -⟩ := encoding_statement i
  exact hdec

/-- Settles O1: `encode` and `decode` undo each other. -/
theorem decodesExactlyItsWord : Obligations.DecodesExactlyItsWord := by
  refine fun w i => ⟨fun h => (encode_of_decode h).symm, ?_⟩
  rintro rfl
  exact decode_encode i

/-- Settles O3: the decoder evaluated on the ten words of R68. -/
theorem exampleWordsDecode : Obligations.ExampleWordsDecode := by
  unfold Obligations.ExampleWordsDecode
  decide

/-! ### The words that do not decode -/

/-- The reserved opcodes (R64). -/
abbrev hasReservedOpcode (w : Word) : Prop :=
  w.extractLsb' 0 4 = 0x0 ∨ w.extractLsb' 0 4 = 0xE ∨ w.extractLsb' 0 4 = 0xF

theorem opcodeOf_eq_none_iff {w : Word} : opcodeOf w = none ↔ hasReservedOpcode w := by
  unfold opcodeOf hasReservedOpcode
  generalize w.extractLsb' 0 4 = op
  revert op
  decide

theorem decode_eq_reservedOpcode_iff {w : Word} :
    decode w = .error .reservedOpcode ↔ hasReservedOpcode w := by
  rw [← opcodeOf_eq_none_iff, decode]
  cases opcodeOf w with
  | none => simp
  | some o => by_cases h : w &&& o.mask = o.pattern <;> simp [h]

theorem decode_eq_reservedEncoding_iff {w : Word} :
    decode w = .error .reservedEncoding ↔ ¬hasReservedOpcode w ∧ ∀ i, encode i ≠ w := by
  rw [← decode_eq_reservedOpcode_iff]
  constructor
  · intro h
    refine ⟨by simp [h], ?_⟩
    rintro i rfl
    simp at h
  · rintro ⟨hop, hword⟩
    cases h : decode w with
    | ok i => exact absurd (encode_of_decode h) (hword i)
    | error e =>
      cases e with
      | reservedOpcode => exact absurd h hop
      | reservedEncoding => rfl

theorem decode_highBits {w : Word} (h : w.extractLsb' 14 18 ≠ 0) :
    decode w = .error .reservedOpcode ∨ decode w = .error .reservedEncoding := by
  cases hdec : decode w with
  | ok i =>
    obtain ⟨o, hrow, -⟩ := row_of_decode hdec
    exact absurd (highBits_eq_zero hrow) h
  | error e => cases e <;> simp

/-- Settles O2: the decoder's two errors by name, and the bits no row allows. -/
theorem illegalWordsByName : Obligations.IllegalWordsByName :=
  fun _ => ⟨decode_eq_reservedOpcode_iff, decode_eq_reservedEncoding_iff, decode_highBits⟩

/-- An illegal word written to `CMD` runs nothing: it raises its cause (R64). -/
theorem step_writeCmd_of_error {s : State} {w : Word} {rest : List HostEvent} {e : DecodeError} (hs : s.ready)
    (hp : s.pending = .writeWord 0x000 w :: rest) (h : decode w = .error e) :
    step s = .next (failed 1 (decodeCause e).number { s with pending := rest, mustPoll := true }) := by
  rw [step_writeReg (r := .cmd) hs hp, writeReg, runWord, h]
  cases e <;> rfl

/-- Settles O5: the two kinds of illegal words are the two errors of the decoder, and each raises its cause. -/
theorem illegalWordRaises : Obligations.IllegalWordRaises :=
  fun _ _ _ hp hs =>
    ⟨fun hop => step_writeCmd_of_error hs hp (decode_eq_reservedOpcode_iff.2 hop),
      fun hop hword => step_writeCmd_of_error hs hp (decode_eq_reservedEncoding_iff.2 ⟨hop, hword⟩)⟩

end Sys2Proof.Machine
end

section
/-! SUPPORT. The field GF(2^8) and the substitution tables (`40_gf_tables.md` R81 to R85): `gmul` is linear in each
operand and commutes with `xtime`, and every byte is a sum of repeated `xtime` of 0x01. -/

namespace Sys2Proof.Machine

/-! ### Multiplication in GF(2^8) -/

/-- A summand `c` added under each of two conditions: where both hold, the two cancel. -/
theorem ite_xor_xor (p q : Bool) (c r r' : Byte) :
    (if p ^^ q then r ^^^ r' ^^^ c else r ^^^ r') =
      (if p then r ^^^ c else r) ^^^ (if q then r' ^^^ c else r') := by
  cases p <;> cases q
  case false.false => rfl
  case false.true => exact BitVec.xor_assoc r r' c
  case true.false => show r ^^^ r' ^^^ c = r ^^^ c ^^^ r'; ac_rfl
  case true.true =>
    calc r ^^^ r' = r ^^^ r' ^^^ (c ^^^ c) := by rw [BitVec.xor_self, BitVec.xor_zero]
      _ = r ^^^ c ^^^ (r' ^^^ c) := by ac_rfl

theorem xtime_xor (a b : Byte) : xtime (a ^^^ b) = xtime a ^^^ xtime b := by
  simp only [xtime, BitVec.getLsbD_xor, BitVec.shiftLeft_xor_distrib, ite_xor_xor]

theorem gmulLoop_xor_left (n : Nat) (a a' b r r' : Byte) :
    gmulLoop n (a ^^^ a') b (r ^^^ r') = gmulLoop n a b r ^^^ gmulLoop n a' b r' := by
  induction n generalizing a a' b r r' with
  | zero => rfl
  | succ n ih =>
    simp only [gmulLoop, xtime_xor, ← ih]
    congr 1
    split
    · ac_rfl
    · rfl

theorem gmulLoop_xor_right (n : Nat) (a b b' r r' : Byte) :
    gmulLoop n a (b ^^^ b') (r ^^^ r') = gmulLoop n a b r ^^^ gmulLoop n a b' r' := by
  induction n generalizing a b b' r r' with
  | zero => rfl
  | succ n ih =>
    simp only [gmulLoop, BitVec.ushiftRight_xor_distrib, BitVec.getLsbD_xor, ite_xor_xor, ih]

theorem gmulLoop_xtime (n : Nat) (a b r : Byte) :
    gmulLoop n (xtime a) b (xtime r) = xtime (gmulLoop n a b r) := by
  induction n generalizing a b r with
  | zero => rfl
  | succ n ih => simp only [gmulLoop, ← ih, ← xtime_xor, apply_ite xtime]

/-- What the loop answers is made of its first operand and its accumulator by `xtime` and `^`. -/
theorem gmulLoop_induction {P : Byte → Prop} (hxtime : ∀ a, P a → P (xtime a))
    (hxor : ∀ a b, P a → P b → P (a ^^^ b)) {n : Nat} {a b r : Byte} (ha : P a) (hr : P r) :
    P (gmulLoop n a b r) := by
  induction n generalizing a b r with
  | zero => exact hr
  | succ n ih =>
    refine ih (hxtime a ha) ?_
    split
    · exact hxor r a hr ha
    · exact hr

theorem gmul_one (a : Byte) : gmul a 0x01 = a := by
  simp [gmul, gmulLoop]

theorem one_gmul : ∀ a : Byte, gmul 0x01 a = a := by
  decide +kernel

theorem gmul_xor_left (a a' b : Byte) : gmul (a ^^^ a') b = gmul a b ^^^ gmul a' b :=
  gmulLoop_xor_left 8 a a' b 0 0

theorem gmul_xor_right (a b b' : Byte) : gmul a (b ^^^ b') = gmul a b ^^^ gmul a b' :=
  gmulLoop_xor_right 8 a b b' 0 0

theorem gmul_xtime_left (a b : Byte) : gmul (xtime a) b = xtime (gmul a b) :=
  gmulLoop_xtime 8 a b 0

theorem gmul_zero (a : Byte) : gmul a 0x00 = 0x00 := by
  simpa using gmul_xor_right a 0 0

/-- Every byte is made of 0x01 by `xtime` and `^`: the loop of `gmul 0x01 b` builds `b` so. -/
theorem byte_induction {P : Byte → Prop} (hone : P 0x01) (hxtime : ∀ a, P a → P (xtime a))
    (hxor : ∀ a b, P a → P b → P (a ^^^ b)) (b : Byte) : P b := by
  rw [← one_gmul b]
  exact gmulLoop_induction hxtime hxor hone (hxor 0x01 0x01 hone hone)

theorem gmul_xtime_right (a b : Byte) : gmul a (xtime b) = xtime (gmul a b) := by
  induction a using byte_induction with
  | hone => rw [one_gmul, one_gmul]
  | hxtime a ih => rw [gmul_xtime_left, gmul_xtime_left, ih]
  | hxor a a' ih ih' => rw [gmul_xor_left, gmul_xor_left, xtime_xor, ih, ih']

theorem gmul_comm (a b : Byte) : gmul a b = gmul b a := by
  induction a using byte_induction with
  | hone => rw [one_gmul, gmul_one]
  | hxtime a ih => rw [gmul_xtime_left, gmul_xtime_right, ih]
  | hxor a a' ih ih' => rw [gmul_xor_left, gmul_xor_right, ih, ih']

theorem gmul_assoc (a b c : Byte) : gmul (gmul a b) c = gmul a (gmul b c) := by
  induction a using byte_induction with
  | hone => rw [one_gmul, one_gmul]
  | hxtime a ih => simp only [gmul_xtime_left, ih]
  | hxor a a' ih ih' => simp only [gmul_xor_left, ih, ih']

theorem gmul_two (a : Byte) : gmul 0x02 a = xtime a :=
  calc gmul 0x02 a = xtime (gmul 0x01 a) := gmul_xtime_left 0x01 a
    _ = xtime a := by rw [one_gmul]

theorem gmul_three (a : Byte) : gmul 0x03 a = xtime a ^^^ a :=
  calc gmul 0x03 a = gmul 0x02 a ^^^ gmul 0x01 a := gmul_xor_left 0x02 0x01 a
    _ = xtime a ^^^ a := by rw [gmul_two, one_gmul]

/-- Settles O23: the laws, each by induction on how 0x01, `xtime` and `^` make the first operand. -/
theorem fieldMultiplicationLaws : Obligations.FieldMultiplicationLaws :=
  ⟨gmul_comm, gmul_assoc, gmul_xor_right,
    fun a => ⟨gmul_one a, gmul_zero a, gmul_two a, gmul_three a⟩, by decide, by decide⟩

/-! ### The substitution tables

The facts about single entries are checked entry by entry, and the rest is derived from them. -/

/-- The affine map `A` of R83. -/
def sboxAffine (b : Byte) : Byte :=
  b ^^^ b.rotateLeft 1 ^^^ b.rotateLeft 2 ^^^ b.rotateLeft 3 ^^^ b.rotateLeft 4 ^^^ 0x63

/-- The affine map that undoes `sboxAffine`. -/
def sboxAffineInverse (c : Byte) : Byte :=
  c.rotateLeft 1 ^^^ c.rotateLeft 3 ^^^ c.rotateLeft 6 ^^^ 0x05

theorem sboxAffine_sboxAffineInverse : ∀ c : Byte, sboxAffine (sboxAffineInverse c) = c := by
  decide +kernel

/-- An entry of `SBOX` with the affine map undone is the multiplicative inverse `inv(x)` of R83. -/
theorem sboxAffineInverse_sbox : ∀ x : Byte,
    (x = 0 ∧ sboxAffineInverse (sbox x) = 0) ∨ gmul x (sboxAffineInverse (sbox x)) = 0x01 := by
  decide +kernel

theorem sbox_eq_affine_of_inverse (x : Byte) :
    ∃ y : Byte, ((x = 0 ∧ y = 0) ∨ gmul x y = 0x01) ∧ sbox x = sboxAffine y :=
  ⟨sboxAffineInverse (sbox x), sboxAffineInverse_sbox x, (sboxAffine_sboxAffineInverse (sbox x)).symm⟩

theorem invSbox_sbox : ∀ x : Byte, invSbox (sbox x) = x := by
  decide +kernel

theorem sbox_bijective : Function.Bijective sbox :=
  Finite.injective_iff_bijective.1 (Function.LeftInverse.injective invSbox_sbox)

theorem sbox_invSbox (x : Byte) : sbox (invSbox x) = x :=
  Function.LeftInverse.rightInverse_of_surjective invSbox_sbox sbox_bijective.surjective x

theorem sbox_no_fixed_points : ∀ x : Byte, sbox x ≠ x ∧ sbox x ≠ x ^^^ 0xFF := by
  decide +kernel

/-- Settles O24: the table is the affine map of the inverse, `INVSBOX` undoes it on the left, and an injective map
of the bytes to themselves is a permutation, so `INVSBOX` undoes it on the right too. -/
theorem substitutionTables : Obligations.SubstitutionTables :=
  ⟨by decide, by decide, by decide +kernel, sbox_bijective, fun x =>
    ⟨sbox_eq_affine_of_inverse x, invSbox_sbox x, sbox_invSbox x, sbox_no_fixed_points x⟩⟩

end Sys2Proof.Machine
end

section
/-! SUPPORT. The key schedule: the words of `scheduleWords` by R93's recurrence, `RKS` byte by byte, and what `KEXP`
does (`41_key_schedule.md` R90 to R96). -/

namespace Sys2Proof.Machine

/-! ### The bytes of a word -/

theorem byteAt_ofFn {n : Nat} (f : Fin n → Byte) {i : Nat} (h : i < n) :
    byteAt (Vector.ofFn f) i = f ⟨i, h⟩ := by
  rw [byteAt_eq_getElem _ _ h, Vector.getElem_ofFn]

section

variable {j : Nat} (hj : j < 4)
include hj

theorem byteAt_rotWord (t : KeyWord) : byteAt (rotWord t) j = byteAt t ((j + 1) % 4) := by
  interval_cases j <;> simp [rotWord, byteAt_eq_getElem]

theorem byteAt_subWord (t : KeyWord) : byteAt (subWord t) j = sbox (byteAt t j) := by
  rw [subWord, byteAt_ofFn _ hj, byteAt_eq_getElem t j hj]
  rfl

theorem byteAt_xorRcon (r : Nat) (t : KeyWord) :
    byteAt (xorRcon r t) j = byteAt t j ^^^ (if j = 0 then rcon r else 0) := by
  interval_cases j <;> simp [xorRcon, byteAt_eq_getElem]

theorem byteAt_xorWord (a b : KeyWord) : byteAt (xorWord a b) j = byteAt a j ^^^ byteAt b j := by
  rw [xorWord, byteAt_ofFn _ hj, byteAt_eq_getElem a j hj, byteAt_eq_getElem b j hj]
  rfl

theorem byteAt_scheduleTemp (nk i : Nat) (prev : KeyWord) :
    byteAt (scheduleTemp nk i prev) j =
      if i % nk = 0 then sbox (byteAt prev ((j + 1) % 4)) ^^^ (if j = 0 then rcon (i / nk) else 0)
      else if nk = 8 ∧ i % 8 = 4 then sbox (byteAt prev j)
      else byteAt prev j := by
  simp only [scheduleTemp, apply_ite (byteAt · j), byteAt_xorRcon hj, byteAt_subWord hj, byteAt_rotWord hj]

end

/-! ### The words of the schedule -/

section

variable {nk : Nat} {key : Vector Byte 32}

@[simp] theorem scheduleWords_length (n : Nat) : (scheduleWords nk key n).length = nk + n := by
  induction n with
  | zero => simp [scheduleWords, keyWordsOf]
  | succ n ih => simp [scheduleWords, ih, Nat.add_assoc]

/-- A word already there stays: each turn of the loop only adds one at the end. -/
theorem keyWordAt_scheduleWords_add {n i : Nat} (hi : i < nk + n) (k : Nat) :
    keyWordAt (scheduleWords nk key (n + k)) i = keyWordAt (scheduleWords nk key n) i := by
  induction k with
  | zero => rfl
  | succ k ih =>
    rw [← ih]
    exact List.getD_append _ _ _ _ (by simp; omega)

/-- The first `nk` words are the key's (R91). -/
theorem keyWordAt_scheduleWords_of_lt {i : Nat} (hi : i < nk) (n : Nat) :
    keyWordAt (scheduleWords nk key n) i = Vector.ofFn fun j => byteAt key (4 * i + j.val) := by
  rw [← Nat.zero_add n, keyWordAt_scheduleWords_add (by omega), keyWordAt, scheduleWords, keyWordsOf,
    List.getD_eq_getElem _ _ (by simpa using hi)]
  simp

theorem keyWordAt_scheduleWords_last (m : Nat) :
    keyWordAt (scheduleWords nk key (m + 1)) (nk + m) =
      xorWord (keyWordAt (scheduleWords nk key m) m)
        (scheduleTemp nk (nk + m) (keyWordAt (scheduleWords nk key m) (nk + m - 1))) := by
  rw [scheduleWords, keyWordAt, List.getD_append_right _ _ _ _ (by simp)]
  simp

/-- R93's recurrence: each further word is the word `nk` back XOR `t` of the previous word. -/
theorem keyWordAt_scheduleWords_of_ge {i n : Nat} (hnk : 0 < nk) (hlo : nk ≤ i) (hhi : i < nk + n) :
    keyWordAt (scheduleWords nk key n) i =
      xorWord (keyWordAt (scheduleWords nk key n) (i - nk))
        (scheduleTemp nk i (keyWordAt (scheduleWords nk key n) (i - 1))) := by
  obtain ⟨m, rfl⟩ := Nat.exists_eq_add_of_le hlo
  obtain ⟨k, rfl⟩ := Nat.exists_eq_add_of_le (show m + 1 ≤ n by omega)
  -- the words the recurrence reads stand in the first `nk + m`
  have hread (p : Nat) (hp : p < nk + m) :
      keyWordAt (scheduleWords nk key (m + 1 + k)) p = keyWordAt (scheduleWords nk key m) p := by
    rw [Nat.add_assoc, keyWordAt_scheduleWords_add hp]
  rw [Nat.add_sub_cancel_left, hread m (by omega), hread (nk + m - 1) (by omega),
    keyWordAt_scheduleWords_add (by omega), keyWordAt_scheduleWords_last]

/-- The words depend on the first `nk` words of the key only. -/
theorem scheduleWords_congr {key' : Vector Byte 32} (h : ∀ i, i < 4 * nk → byteAt key i = byteAt key' i)
    (n : Nat) : scheduleWords nk key n = scheduleWords nk key' n := by
  induction n with
  | zero =>
    refine List.map_congr_left fun i hi => Vector.ext fun j hj => ?_
    have := List.mem_range.1 hi
    simpa using h (4 * i + j) (by omega)
  | succ n ih => rw [scheduleWords, scheduleWords, ih]

end

/-! ### The schedule in `RKS` -/

/-- The words of `expandKey`: all `4 (Nr + 1)` that the rounds use (R90, R91). -/
abbrev roundWords (ks : KeySize) (key : Vector Byte 32) : List KeyWord :=
  scheduleWords (keyWords ks) key (4 * (rounds ks + 1) - keyWords ks)

theorem keyWords_pos (ks : KeySize) : 0 < keyWords ks := by
  cases ks <;> decide

theorem keyWords_le (ks : KeySize) : keyWords ks ≤ 4 * (rounds ks + 1) := by
  cases ks <;> decide

/-- The largest schedule, of 14 rounds, fills `RKS` (R16). -/
theorem rounds_le (ks : KeySize) : rounds ks ≤ 14 := by
  cases ks <;> decide

theorem keyBytes_eq (ks : KeySize) : keyBytes ks = 4 * keyWords ks := by
  cases ks <;> rfl

theorem byteAt_expandKey (ks : KeySize) (key : Vector Byte 32) {p : Nat} (hp : p < 240) :
    byteAt (expandKey ks key) p = byteAt (keyWordAt (roundWords ks key) (p / 4)) (p % 4) := by
  rw [expandKey, byteAt_ofFn _ hp]

theorem scheduleByte_expandKey (ks : KeySize) (key : Vector Byte 32) {i j : Nat}
    (hi : i < 4 * (rounds ks + 1)) (hj : j < 4) :
    scheduleByte (expandKey ks key) i j = byteAt (keyWordAt (roundWords ks key) i) j := by
  have := rounds_le ks
  rw [scheduleByte, byteAt_expandKey ks key (by omega), show (4 * i + j) / 4 = i by omega,
    show (4 * i + j) % 4 = j by omega]

/-- Past the words of the rounds `RKS` is 0 (R95). -/
theorem byteAt_expandKey_of_ge (ks : KeySize) (key : Vector Byte 32) {p : Nat}
    (hp : 16 * (rounds ks + 1) ≤ p) : byteAt (expandKey ks key) p = 0 := by
  rcases Nat.lt_or_ge p 240 with hlt | hge
  · have := keyWords_le ks
    rw [byteAt_expandKey ks key hlt, keyWordAt, List.getD_eq_default _ _ (by simp; omega),
      byteAt_eq_getElem _ _ (Nat.mod_lt p (by decide)), Vector.getElem_replicate]
  · exact byteAt_of_ge _ _ hge

/-- Settles O22: byte `j` of word `i` of `RKS` is byte `j` of word `i` of the loop, which R93's recurrence gives. -/
theorem scheduleRecurrence : Obligations.ScheduleRecurrence := by
  intro ks key
  have hnk := keyWords_le ks
  have hpos := keyWords_pos ks
  refine ⟨fun i j hi hj => ?_, fun i j hlo hhi hj => ?_, fun p => byteAt_expandKey_of_ge ks key,
    fun key' h => ?_⟩
  · rw [scheduleByte_expandKey ks key (by omega) hj, keyWordAt_scheduleWords_of_lt hi, byteAt_ofFn _ hj]
  · rw [scheduleByte_expandKey ks key hhi hj, keyWordAt_scheduleWords_of_ge hpos hlo (by omega),
      byteAt_xorWord hj, byteAt_scheduleTemp hj, scheduleByte_expandKey ks key (by omega) hj,
      scheduleByte_expandKey ks key (by omega) (Nat.mod_lt _ (by decide)),
      scheduleByte_expandKey ks key (by omega) hj]
  · rw [expandKey, expandKey, scheduleWords_congr (keyBytes_eq ks ▸ h)]

/-! ### `KEXP` -/

theorem keySizeOfCode_eq_none_iff {c : BitVec 2} : keySizeOfCode c = none ↔ c = 3 := by
  revert c
  decide

theorem kexpBody_of_key {s : State} {ks : KeySize} (hsize : s.selectedSize = some ks)
    (hkey : s.status.keyV = true) : kexpBody s = .ok (s.putSchedule (expandKey ks s.key)) := by
  simp [kexpBody, hsize, hkey]

theorem kexpBody_of_noSize {s : State} (hsize : s.selectedSize = none) :
    kexpBody s = .error .noCipherSelected := by
  simp [kexpBody, hsize]

theorem kexpBody_of_noKey {s : State} {ks : KeySize} (hsize : s.selectedSize = some ks)
    (hkey : s.status.keyV = false) : kexpBody s = .error .missingKeyMaterial := by
  simp [kexpBody, hsize, hkey]

/-- Settles O21: the key size is looked at first, then the key. -/
theorem kexpResultAndErrors : Obligations.KexpResultAndErrors := by
  refine fun s => ⟨fun ks hsize hkey => ?_, fun hsize => ?_, fun hsize hkey => ?_⟩
  · exact runCommand_ok (kexpBody_of_key (s := s.started) hsize hkey)
  · exact runCommand_error (kexpBody_of_noSize (s := s.started) (keySizeOfCode_eq_none_iff.2 hsize))
  · obtain ⟨ks, hks⟩ := Option.ne_none_iff_exists'.1 (mt keySizeOfCode_eq_none_iff.1 hsize)
    exact runCommand_error (kexpBody_of_noKey (s := s.started) hks hkey)

end Sys2Proof.Machine
end

section
/-! SUPPORT. The frame of every command: what the buffer commands store, and what the results and the error entry of
each command leave unchanged (`60_exceptions.md` R203 and each command's "Written" list, R95 to R190). -/

namespace Sys2Proof.Machine

/-! ### The buffer commands -/

/-- The commands that read `IBUF` and write `OBUF` (R128, R140, R141, R145). -/
def IsBufferCommand : Instr → Prop
  | .apply _ _ | .pada _ | .padr _ | .xform _ _ _ => True
  | _ => False

/-- What `XFORM` gives where its payload's checks pass fits `OBUF`. -/
theorem xformBody_output_fits {m : Mode} {dir : Dir} {np : Bool} {nr : Nat} {s : State} {out : List Byte}
    (hlen : s.iLen.toNat ≤ s.bufCap) (hw : m ≠ .ctr → dir = .decrypt → s.wholeBlocksCause = none)
    (hout : transform m dir np s.rks nr s.ivr s.payload = .ok out) : out.length ≤ s.bufCap + 16 := by
  have hle := transform_length hout fun hm hdir => by
    rw [payload_length]; exact (wholeBlocksCause_eq_none.1 (hw hm hdir)).2
  rw [payload_length] at hle
  omega

/-- All a buffer command does where it succeeds is to store an output, and it fits `OBUF`. -/
theorem bufferCommand_ok {i : Instr} {s t : State} (h : bodyOf i s = .ok t) (hi : IsBufferCommand i) :
    ∃ out : List Byte, out.length ≤ s.bufCap + 16 ∧ t = s.putOutput out := by
  cases i with
  | apply md dir =>
    obtain ⟨m, nr, hm, hw, rfl⟩ := applyBody_ok h
    obtain ⟨-, -, -, hlen, -⟩ := modeChecks_eq_ok.1 hm
    exact ⟨_, applyBody_output_fits hlen hw, rfl⟩
  | pada np =>
    obtain ⟨hp, rfl⟩ := padaBody_ok h
    obtain ⟨hlen, -⟩ := payloadCause_eq_none.1 hp
    refine ⟨_, ?_, rfl⟩
    rw [padAdd_length, payload_length]
    split <;> omega
  | padr np =>
    obtain ⟨hp, -, out, hout, rfl⟩ := padrBody_ok h
    obtain ⟨hlen, -⟩ := payloadCause_eq_none.1 hp
    have hle := padRemove_length hout
    rw [payload_length] at hle
    exact ⟨out, by omega, rfl⟩
  | xform md dir np =>
    obtain ⟨m, nr, hm, hw, out, hout, rfl⟩ := xformBody_ok h
    obtain ⟨-, -, -, hlen, -⟩ := modeChecks_eq_ok.1 hm
    exact ⟨out, xformBody_output_fits hlen hw hout, rfl⟩
  | _ => exact hi.elim

/-- `OLEN` counts an output that fits `OBUF` exactly: no legal `BUFCAP` comes near 2^32. -/
theorem putOutput_oLen_toNat {s : State} {out : List Byte} (hcap : CapInv s)
    (hout : out.length ≤ s.bufCap + 16) : (s.putOutput out).oLen.toNat = out.length := by
  obtain ⟨-, hcap⟩ := hcap
  rw [State.putOutput_oLen, BitVec.toNat_ofNat]
  exact Nat.mod_eq_of_lt (by omega)

/-- The output stands in `OBUF[0 .. OLEN)`. -/
theorem putOutput_bytes {s : State} {out : List Byte} (hcap : CapInv s)
    (hout : out.length ≤ s.bufCap + 16) :
    (s.putOutput out).mem.bytes 0x20000 (s.putOutput out).oLen.toNat = out := by
  rw [putOutput_oLen_toNat hcap hout]
  exact Memory.bytes_write s.mem obufBase out

/-- Nothing below `OBUF` changes, and nothing from `OBUF[OLEN]` on (R128). -/
theorem putOutput_read_outside {s : State} {out : List Byte} (hout : out.length ≤ s.bufCap + 16) {a : Nat}
    (ha : a < 0x20000 ∨ CapInv s ∧ 0x20000 + (s.putOutput out).oLen.toNat ≤ a) :
    (s.putOutput out).mem.read a = s.mem.read a := by
  refine Memory.read_write_outside s.mem obufBase out a (ha.imp_right fun ⟨hcap, hle⟩ => ?_)
  rwa [putOutput_oLen_toNat hcap hout] at hle

/-- The frame of a buffer command that takes `s` to `t`. -/
abbrev BufferFrame (s t : State) : Prop :=
  t = { s with mem := t.mem, oLen := t.oLen, status := t.status } ∧
  t.status.keyV = s.status.keyV ∧ t.status.ivV = s.status.ivV ∧ t.status.rkV = s.status.rkV ∧
  ∀ a, t.status.err = true ∨ a < 0x20000 ∨ (CapInv s ∧ 0x20000 + t.oLen.toNat ≤ a) →
    t.mem.read a = s.mem.read a

theorem bufferFrame_putOutput {s : State} {out : List Byte} (hout : out.length ≤ s.bufCap + 16) :
    BufferFrame s (s.started.putOutput out).completed :=
  ⟨rfl, rfl, rfl, rfl, fun _ ha =>
    putOutput_read_outside (s := s.started) hout (ha.resolve_left Bool.false_ne_true)⟩

theorem bufferFrame_raise (c : Cause) (s : State) : BufferFrame s (raise c s.started) :=
  ⟨rfl, rfl, rfl, rfl, fun _ _ => rfl⟩

/-! ### All commands -/

/-- Settles O56: each command's results are the ones its body's law names, and its error entry touches `STATUS` only. -/
theorem commandFrame : Obligations.CommandFrame := by
  intro i s t h
  rw [exec_eq] at h
  rcases runCommand_next h with ⟨u, hu, rfl⟩ | ⟨c, hc, rfl⟩
  · cases i with
    | kexp =>
      obtain ⟨ks, -, -, rfl⟩ := kexpBody_ok hu
      exact ⟨rfl, rfl, rfl, rfl, rfl, rfl, rfl⟩
    | encb =>
      obtain ⟨nr, -, rfl⟩ := encbBody_ok hu
      exact ⟨rfl, rfl, rfl, rfl, rfl, rfl, rfl, rfl⟩
    | decb =>
      obtain ⟨nr, -, rfl⟩ := decbBody_ok hu
      exact ⟨rfl, rfl, rfl, rfl, rfl, rfl, rfl, rfl⟩
    | apply | pada | padr | xform =>
      obtain ⟨out, hout, rfl⟩ := bufferCommand_ok hu trivial
      exact ⟨rfl, rfl, rfl, rfl, bufferFrame_putOutput hout⟩
    | draw ks q =>
      obtain ⟨-, -, k, -, rfl⟩ := drawBody_ok hu
      exact ⟨rfl, rfl, rfl, rfl, rfl, rfl⟩
    | div q rnd =>
      rcases divBody_ok hu with ⟨-, rfl⟩ | ⟨-, -, b, -, rfl⟩ <;>
        exact ⟨rfl, rfl, rfl, rfl, rfl, rfl, rfl⟩
    | stretch ks kdf =>
      obtain ⟨-, -, -, T, k, -, -, rfl⟩ := stretchBody_ok hu
      exact ⟨rfl, rfl, rfl, rfl, rfl⟩
    | saltgen =>
      cases hu
      refine ⟨rfl, rfl, rfl, rfl, rfl, rfl, rfl, rfl, fun a ha => ?_⟩
      exact Memory.read_write_outside s.mem saltBase _ a (by simpa [saltBase, State.randBytes] using ha)
    | hdr fr =>
      rcases hdrBody_ok hu with ⟨-, -, rfl⟩ | ⟨-, -, rfl⟩ <;>
        exact ⟨rfl, rfl, rfl, rfl, rfl, rfl, rfl, rfl⟩
    | clr =>
      cases hu
      exact ⟨rfl, rfl, rfl, rfl, rfl, fun _ => rfl⟩
  · refine ⟨rfl, rfl, rfl, rfl, ?_⟩
    cases i with
    | kexp => exact ⟨rfl, rfl, rfl⟩
    | encb | decb | hdr => exact ⟨rfl, rfl, rfl, rfl⟩
    | apply | pada | padr | xform => exact bufferFrame_raise c s
    | draw => exact ⟨rfl, rfl⟩
    | div => exact ⟨rfl, rfl, rfl⟩
    | stretch => exact rfl
    | saltgen => exact ⟨rfl, rfl, rfl, rfl, fun _ _ => rfl⟩
    | clr => cases hc

end Sys2Proof.Machine
end

section
/-! SUPPORT. Under the invariant the schedule in `RKS` is that of the `KEY` and `KSIZE` in place, so the commands that
use it work under the present key (`41_key_schedule.md` R96, `70_reset_and_hazards.md` R227). -/

namespace Sys2Proof.Machine

/-- Where there is a schedule, it is that of the key and the size in place (R96). -/
theorem schedule_of_presentKey {s : State} {nr : Nat} (hinv : ScheduleInv s)
    (h : s.scheduleRounds = some nr) :
    ∃ ks, keySizeOfCode s.kSize = some ks ∧ s.rks = expandKey ks s.key ∧ nr = rounds ks := by
  obtain ⟨-, ks, hks, rfl⟩ := scheduleRounds_eq_some.1 h
  unfold ScheduleInv at hinv
  rw [hks] at hinv
  obtain ⟨-, -, hsize, hrks⟩ := hinv
  exact ⟨ks, hsize ▸ hks, hrks, rfl⟩

/-- A command that ends with `DONE` did not raise: it has its body's results. -/
theorem exec_done {i : Instr} {s t : State} (h : exec i s = .next t) (hdone : t.status.done = true) :
    ∃ u, bodyOf i s.started = .ok u ∧ t = u.completed := by
  rcases exec_next h with hu | ⟨c, rfl⟩
  · exact hu
  · exact absurd hdone Bool.false_ne_true

/-- Settles O60: each command's law names the schedule in `RKS`, which the invariant ties to the present key. -/
theorem cipherUsesScheduleOfPresentKey : Obligations.CipherUsesScheduleOfPresentKey := by
  intro s t hinv hdone
  obtain ⟨hd, -⟩ := inv_iff.1 hinv
  have hpresent {nr : Nat} (h : s.started.scheduleRounds = some nr) := schedule_of_presentKey hd.schedule h
  refine ⟨fun h => ?_, fun h => ?_, fun md dir h => ?_, fun md dir np h => ?_⟩
  · obtain ⟨u, hu, rfl⟩ := exec_done h hdone
    obtain ⟨nr, hnr, rfl⟩ := encbBody_ok hu
    obtain ⟨ks, hsize, hrks, rfl⟩ := hpresent hnr
    exact ⟨ks, hsize, hrks ▸ rfl⟩
  · obtain ⟨u, hu, rfl⟩ := exec_done h hdone
    obtain ⟨nr, hnr, rfl⟩ := decbBody_ok hu
    obtain ⟨ks, hsize, hrks, rfl⟩ := hpresent hnr
    exact ⟨ks, hsize, hrks ▸ rfl⟩
  · obtain ⟨u, hu, rfl⟩ := exec_done h hdone
    obtain ⟨m, nr, hm, hw, rfl⟩ := applyBody_ok hu
    obtain ⟨hmd, hnr, -, hlen, -⟩ := modeChecks_eq_ok.1 hm
    obtain ⟨ks, hsize, hrks, rfl⟩ := hpresent hnr
    refine ⟨ks, m, hsize, hmd, ?_⟩
    rw [← hrks]
    exact putOutput_bytes (s := s.started) hd.cap (applyBody_output_fits hlen hw)
  · obtain ⟨u, hu, rfl⟩ := exec_done h hdone
    obtain ⟨m, nr, hm, hw, out, hout, rfl⟩ := xformBody_ok hu
    obtain ⟨hmd, hnr, -, hlen, -⟩ := modeChecks_eq_ok.1 hm
    obtain ⟨ks, hsize, hrks, rfl⟩ := hpresent hnr
    refine ⟨ks, m, hsize, hmd, ?_⟩
    have hfits := xformBody_output_fits hlen hw hout
    rw [← hrks]
    exact hout.trans (congrArg Except.ok (putOutput_bytes (s := s.started) hd.cap hfits).symm)

end Sys2Proof.Machine
end

section
/-! SUPPORT. The parts of a round: `ShiftRows` and `MixColumns` by cells, and the undoing of each part
(`42_block_transform.md` R101 to R108). -/

namespace Sys2Proof.Machine

/-- Blocks with equal cells (R100) are equal. -/
theorem block_ext {s t : Block} (h : ∀ r < 4, ∀ c < 4, byteAt s (r + 4 * c) = byteAt t (r + 4 * c)) : s = t :=
  eq_of_byteAt fun i hi => by
    simpa only [Nat.mod_add_div] using h (i % 4) (by omega) (i / 4) (by omega)

/-! ### Adding a round key and substituting -/

theorem addRoundKey_addRoundKey (rks : Vector Byte 240) (k : Nat) (s : Block) :
    addRoundKey rks k (addRoundKey rks k s) = s :=
  Vector.ext fun i hi => by simp [addRoundKey]

theorem invSubBytes_subBytes (s : Block) : invSubBytes (subBytes s) = s :=
  Vector.ext fun i hi => by simp [invSubBytes, subBytes, invSbox_sbox]

/-! ### Shifting rows -/

section

variable {r c : Nat} (s : Block) (hr : r < 4) (hc : c < 4)
include hr hc

theorem byteAt_shiftRows : byteAt (shiftRows s) (r + 4 * c) = byteAt s (r + 4 * ((c + r) % 4)) := by
  interval_cases r <;> interval_cases c <;> simp [shiftRows, byteAt_eq_getElem]

theorem byteAt_invShiftRows :
    byteAt (invShiftRows s) (r + 4 * c) = byteAt s (r + 4 * ((c + 4 - r) % 4)) := by
  interval_cases r <;> interval_cases c <;> simp [invShiftRows, byteAt_eq_getElem]

end

/-- Right by `r` cells and left by `r` cells is no move. -/
theorem invShiftRows_shiftRows (s : Block) : invShiftRows (shiftRows s) = s :=
  block_ext fun r hr c hc => by
    rw [byteAt_invShiftRows _ hr hc, byteAt_shiftRows s hr (Nat.mod_lt _ (by decide)),
      show ((c + 4 - r) % 4 + r) % 4 = c by omega]

/-- Settles O25: by cells, and the two rotations of a row cancel. -/
theorem rowShiftsByCells : Obligations.RowShiftsByCells :=
  fun s _ _ hr hc => ⟨byteAt_shiftRows s hr hc, byteAt_invShiftRows s hr hc, invShiftRows_shiftRows s⟩

/-! ### Mixing columns -/

/-- A row of coefficients applied to column `c` of a block. -/
def columnCell (k0 k1 k2 k3 : Byte) (s : Block) (c : Nat) : Byte :=
  mixCell k0 k1 k2 k3 (byteAt s (4 * c)) (byteAt s (4 * c + 1)) (byteAt s (4 * c + 2)) (byteAt s (4 * c + 3))

section

variable {c : Nat} (k0 k1 k2 k3 l0 l1 l2 l3 : Byte) (s : Block) (hc : c < 4)
include hc

/-- Row `r` of a mixed column has the coefficients rotated right by `r` (R104, R108). -/
theorem mixBy_rows :
    byteAt (mixBy k0 k1 k2 k3 s) (4 * c) = columnCell k0 k1 k2 k3 s c ∧
    byteAt (mixBy k0 k1 k2 k3 s) (4 * c + 1) = columnCell k3 k0 k1 k2 s c ∧
    byteAt (mixBy k0 k1 k2 k3 s) (4 * c + 2) = columnCell k2 k3 k0 k1 s c ∧
    byteAt (mixBy k0 k1 k2 k3 s) (4 * c + 3) = columnCell k1 k2 k3 k0 s c := by
  refine ⟨?_, ?_, ?_, ?_⟩ <;>
  · rw [mixBy, byteAt_ofFn _ (by omega)]
    simp [columnCell, Nat.mul_add_div]

/-- A row of coefficients applied to a mixed column is their product with the circulant, applied to the column. -/
theorem columnCell_mixBy :
    columnCell k0 k1 k2 k3 (mixBy l0 l1 l2 l3 s) c =
      columnCell (mixCell k0 k1 k2 k3 l0 l3 l2 l1) (mixCell k0 k1 k2 k3 l1 l0 l3 l2)
        (mixCell k0 k1 k2 k3 l2 l1 l0 l3) (mixCell k0 k1 k2 k3 l3 l2 l1 l0) s c := by
  obtain ⟨h0, h1, h2, h3⟩ := mixBy_rows l0 l1 l2 l3 s hc
  rw [columnCell, h0, h1, h2, h3]
  simp only [columnCell, mixCell, gmul_xor_left, gmul_xor_right, gmul_assoc]
  ac_rfl

end

/-- Blocks with equal columns, row by row, are equal. -/
theorem block_ext_rows {s t : Block} (h : ∀ c < 4,
    byteAt s (4 * c) = byteAt t (4 * c) ∧ byteAt s (4 * c + 1) = byteAt t (4 * c + 1) ∧
    byteAt s (4 * c + 2) = byteAt t (4 * c + 2) ∧ byteAt s (4 * c + 3) = byteAt t (4 * c + 3)) : s = t :=
  block_ext fun r hr c hc => by
    obtain ⟨h0, h1, h2, h3⟩ := h c hc
    rw [Nat.add_comm]
    interval_cases r
    · exact h0
    · exact h1
    · exact h2
    · exact h3

/-- Mixing twice mixes once, by the product of the two circulants. -/
theorem mixBy_mixBy (k0 k1 k2 k3 l0 l1 l2 l3 : Byte) (s : Block) :
    mixBy k0 k1 k2 k3 (mixBy l0 l1 l2 l3 s) =
      mixBy (mixCell k0 k1 k2 k3 l0 l3 l2 l1) (mixCell k0 k1 k2 k3 l1 l0 l3 l2)
        (mixCell k0 k1 k2 k3 l2 l1 l0 l3) (mixCell k0 k1 k2 k3 l3 l2 l1 l0) s := by
  refine block_ext_rows fun c hc => ?_
  -- in each row the coefficients stand rotated on both sides, and so do the sums of their products
  simp only [mixBy_rows _ _ _ _ _ hc, columnCell_mixBy _ _ _ _ _ _ _ _ s hc, mixCell, true_and]
  refine ⟨?_, ?_, ?_⟩ <;> ac_rfl

theorem zero_gmul (a : Byte) : gmul 0x00 a = 0x00 := by
  rw [gmul_comm, gmul_zero]

/-- The coefficients 01 00 00 00 are those of the identity. -/
theorem mixBy_one (s : Block) : mixBy 0x01 0x00 0x00 0x00 s = s := by
  refine block_ext_rows fun c hc => ?_
  simp only [mixBy_rows _ _ _ _ s hc, columnCell, mixCell, one_gmul, zero_gmul]
  simp

/-- The product of the two matrices is the identity matrix. -/
theorem invMixColumns_mixColumns (s : Block) : invMixColumns (mixColumns s) = s :=
  calc invMixColumns (mixColumns s)
    _ = mixBy 0x01 0x00 0x00 0x00 s := by rw [invMixColumns, mixColumns, mixBy_mixBy]; rfl
    _ = s := mixBy_one s

/-- Settles O26: each cell is a rotated row of the matrix applied to its column; a coefficient 01 leaves the byte. -/
theorem columnMixingByRows : Obligations.ColumnMixingByRows := by
  intro s c a0 a1 a2 a3 hc ha0 ha1 ha2 ha3
  subst ha0 ha1 ha2 ha3
  have hmix := mixBy_rows 0x02 0x03 0x01 0x01 s hc
  simp only [columnCell, mixCell, one_gmul] at hmix
  obtain ⟨m0, m1, m2, m3⟩ := hmix
  obtain ⟨i0, i1, i2, i3⟩ := mixBy_rows 0x0E 0x0B 0x0D 0x09 s hc
  exact ⟨m0, m1, m2, m3, i0, i1, i2, i3, invMixColumns_mixColumns s⟩

end Sys2Proof.Machine
end

section
/-! SUPPORT. `Cipher` and `InvCipher` undo each other and read the round keys only, and what `ENCB` and `DECB` do with
them (`42_block_transform.md` R109 to R112). -/

namespace Sys2Proof.Machine

/-! ### The rounds undone -/

section

variable (rks : Vector Byte 240)

/-- The substituted and shifted state after a round becomes that before it: `InvCipher` undoes the parts of the rounds
in an order shifted by these two. -/
theorem invCipherRound_cipherRound (r : Nat) (s : Block) :
    invCipherRound rks r (shiftRows (subBytes (cipherRound rks r s))) = shiftRows (subBytes s) := by
  rw [invCipherRound, invShiftRows_shiftRows, invSubBytes_subBytes, cipherRound, addRoundKey_addRoundKey,
    invMixColumns_mixColumns]

theorem invCipherRounds_cipherRounds (n : Nat) (s : Block) :
    invCipherRounds rks n (shiftRows (subBytes (cipherRounds rks n s))) = shiftRows (subBytes s) := by
  induction n with
  | zero => rfl
  | succ n ih => rw [cipherRounds, invCipherRounds, invCipherRound_cipherRound, ih]

theorem invCipher_cipher (nr : Nat) (x : Block) : invCipher rks nr (cipher rks nr x) = x := by
  rw [invCipher, cipher, addRoundKey_addRoundKey, invCipherRounds_cipherRounds, invShiftRows_shiftRows,
    invSubBytes_subBytes, addRoundKey_addRoundKey]

theorem finite_block : Finite Block :=
  Finite.of_injective (fun (s : Block) (i : Fin 16) => s[i]) fun _ _ h =>
    Vector.ext fun i hi => congrFun h ⟨i, hi⟩

/-- `Cipher` is a permutation of the blocks: it is injective, and there are finitely many. -/
theorem cipher_bijective (nr : Nat) : Function.Bijective (cipher rks nr) :=
  have := finite_block
  Finite.injective_iff_bijective.1 (Function.LeftInverse.injective (invCipher_cipher rks nr))

theorem cipher_invCipher (nr : Nat) (x : Block) : cipher rks nr (invCipher rks nr x) = x :=
  Function.LeftInverse.rightInverse_of_surjective (invCipher_cipher rks nr)
    (cipher_bijective rks nr).surjective x

end

/-! ### What the rounds read of the schedule -/

section

variable {rks rks' : Vector Byte 240} {nr : Nat}
  (h : ∀ p, p < 16 * (nr + 1) → byteAt rks p = byteAt rks' p)
include h

theorem addRoundKey_congr {k : Nat} (hk : k ≤ nr) (s : Block) : addRoundKey rks k s = addRoundKey rks' k s := by
  refine Vector.ext fun i hi => ?_
  have hbyte := h (16 * k + i) (by omega)
  simp [addRoundKey, hbyte]

theorem cipherRounds_congr {n : Nat} (hn : n ≤ nr) (s : Block) :
    cipherRounds rks n s = cipherRounds rks' n s := by
  induction n with
  | zero => rfl
  | succ n ih =>
    rw [cipherRounds, cipherRounds, ih (by omega), cipherRound, cipherRound, addRoundKey_congr h hn]

theorem invCipherRounds_congr {n : Nat} (hn : n ≤ nr) (s : Block) :
    invCipherRounds rks n s = invCipherRounds rks' n s := by
  induction n generalizing s with
  | zero => rfl
  | succ n ih =>
    rw [invCipherRounds, invCipherRounds, ih (by omega), invCipherRound, invCipherRound, addRoundKey_congr h hn]

theorem cipher_congr (x : Block) : cipher rks nr x = cipher rks' nr x := by
  rw [cipher, cipher, addRoundKey_congr h (Nat.zero_le nr), cipherRounds_congr h (Nat.sub_le nr 1),
    addRoundKey_congr h le_rfl]

theorem invCipher_congr (x : Block) : invCipher rks nr x = invCipher rks' nr x := by
  rw [invCipher, invCipher, addRoundKey_congr h le_rfl, invCipherRounds_congr h (Nat.sub_le nr 1),
    addRoundKey_congr h (Nat.zero_le nr)]

end

/-- Settles O27: `InvCipher` undoes the rounds one by one, so `Cipher` is injective and hence a permutation, which
gives the other order; the bytes read are those of the round keys 0 to `Nr`. -/
theorem cipherLaws : Obligations.CipherLaws :=
  fun ks rks => ⟨invCipher_cipher rks (rounds ks), cipher_invCipher rks (rounds ks),
    cipher_bijective rks (rounds ks), fun _ h x => ⟨cipher_congr h x, invCipher_congr h x⟩⟩

/-! ### `ENCB` and `DECB` -/

section

variable {s : State}

theorem scheduleRounds_of_hasSchedule {ks : KeySize} (h : s.hasSchedule ks) :
    s.scheduleRounds = some (rounds ks) :=
  scheduleRounds_eq_some.2 ⟨h.1, ks, h.2, rfl⟩

theorem scheduleRounds_of_stale (h : s.status.rkV = false) : s.scheduleRounds = none := by
  simp [State.scheduleRounds, h]

theorem encbBody_of_schedule {nr : Nat} (h : s.scheduleRounds = some nr) :
    encbBody s = .ok { s with blk := cipher s.rks nr s.blk } := by
  rw [encbBody, h]

theorem encbBody_of_noSchedule (h : s.scheduleRounds = none) : encbBody s = .error .noKeySchedule := by
  rw [encbBody, h]

theorem decbBody_of_schedule {nr : Nat} (h : s.scheduleRounds = some nr) :
    decbBody s = .ok { s with blk := invCipher s.rks nr s.blk } := by
  rw [decbBody, h]

theorem decbBody_of_noSchedule (h : s.scheduleRounds = none) : decbBody s = .error .noKeySchedule := by
  rw [decbBody, h]

theorem exec_encb_of_hasSchedule {ks : KeySize} (h : s.hasSchedule ks) :
    exec .encb s = .next { s with blk := cipher s.rks (rounds ks) s.blk, status := doneStatus s.status } :=
  runCommand_ok (encbBody_of_schedule (s := s.started) (scheduleRounds_of_hasSchedule h))

theorem exec_decb_of_hasSchedule {ks : KeySize} (h : s.hasSchedule ks) :
    exec .decb s = .next { s with blk := invCipher s.rks (rounds ks) s.blk, status := doneStatus s.status } :=
  runCommand_ok (decbBody_of_schedule (s := s.started) (scheduleRounds_of_hasSchedule h))

end

/-- Settles O28: with a schedule each command runs its transform, and without one it raises. -/
theorem blockCommandResults : Obligations.BlockCommandResults :=
  fun s => ⟨fun _ h => ⟨exec_encb_of_hasSchedule h, exec_decb_of_hasSchedule h⟩, fun h =>
    ⟨runCommand_error (encbBody_of_noSchedule (s := s.started) (scheduleRounds_of_stale h)),
      runCommand_error (decbBody_of_noSchedule (s := s.started) (scheduleRounds_of_stale h))⟩⟩

/-- Settles O29: the first command keeps the schedule, so the second runs with the same one and undoes it. -/
theorem encryptThenDecryptRestoresBlock : Obligations.EncryptThenDecryptRestoresBlock := by
  refine fun s ks h => ⟨⟨_, exec_encb_of_hasSchedule h, ?_⟩, ⟨_, exec_decb_of_hasSchedule h, ?_⟩⟩
  · rw [exec_decb_of_hasSchedule (ks := ks), invCipher_cipher]
    exact h
  · rw [exec_encb_of_hasSchedule (ks := ks), cipher_invCipher]
    exact h

end Sys2Proof.Machine
end

section
/-! SUPPORT. The number a block stands for (`00_scope.md` R7): `be128` and `be128inv` undo each other, and the counter
of CTR (`43_modes.md` R126) steps it by 1 modulo 2^128. -/

namespace Sys2Proof.Machine

/-- The base-256 digits of a block's number, the lowest first, are its bytes from the last on. -/
theorem be128_eq_ofDigits (b : Block) : be128 b = Nat.ofDigits 256 (b.toList.reverse.map BitVec.toNat) := by
  rw [Nat.ofDigits_eq_foldr, List.foldr_map, List.foldr_reverse, be128]
  simp only [Nat.cast_id, Nat.add_comm, Nat.mul_comm]

theorem lt_of_mem_map_toNat (l : List Byte) : ∀ d ∈ l.map BitVec.toNat, d < 256 := by
  simp only [List.mem_map]
  rintro d ⟨x, -, rfl⟩
  exact x.isLt

theorem be128_lt (b : Block) : be128 b < 2 ^ 128 := by
  have h := Nat.ofDigits_lt_base_pow_length (by decide) (lt_of_mem_map_toNat b.toList.reverse)
  rw [be128_eq_ofDigits]
  simpa using h

theorem be128_injective : Function.Injective be128 := by
  intro a b h
  rw [be128_eq_ofDigits, be128_eq_ofDigits] at h
  have hdigits := Nat.ofDigits_inj_of_len_eq (by decide) (by simp) (lt_of_mem_map_toNat _) (lt_of_mem_map_toNat _) h
  have hbytes := List.map_injective_iff.2 (fun _ _ => BitVec.eq_of_toNat_eq) hdigits
  exact Vector.toList_inj.1 (List.reverse_injective hbytes)

/-- The big-endian value of the `m` low base-256 digits of a number. -/
theorem foldl_low_digits (m n : Nat) :
    (List.ofFn fun i : Fin m => BitVec.ofNat 8 (n / 256 ^ (m - 1 - i.val))).foldl
      (fun a x => a * 256 + x.toNat) 0 = n % 256 ^ m := by
  induction m generalizing n with
  | zero => simp [Nat.mod_one]
  | succ m ih =>
    have hhigh (i : Fin m) : n / 256 ^ (m - i.val) = n / 256 / 256 ^ (m - 1 - i.val) := by
      rw [Nat.div_div_eq_div_mul, ← Nat.pow_succ', show m - i.val = m - 1 - i.val + 1 by omega]
    rw [List.ofFn_succ_last, Nat.pow_succ', Nat.mod_mul]
    simp only [Fin.val_castSucc, hhigh, List.foldl_append, ih, List.foldl_cons, List.foldl_nil, Fin.val_last,
      Nat.add_sub_cancel, Nat.sub_self, Nat.pow_zero, Nat.div_one, BitVec.toNat_ofNat]
    omega

theorem be128_be128inv (n : Nat) : be128 (be128inv n) = n % 2 ^ 128 := by
  rw [be128, be128inv, Vector.toList_ofFn]
  exact foldl_low_digits 16 n

theorem be128inv_be128 (c : Block) : be128inv (be128 c) = c :=
  be128_injective (by rw [be128_be128inv, Nat.mod_eq_of_lt (be128_lt c)])

theorem be128_nextCounter (c : Block) : be128 (nextCounter c) = (be128 c + 1) % 2 ^ 128 := by
  rw [nextCounter, be128_be128inv, Nat.mod_mod]

theorem nextCounter_ones : nextCounter (Vector.replicate 16 0xFF) = Vector.replicate 16 0x00 := by
  decide

end Sys2Proof.Machine
end

section
/-! SUPPORT. The modes (`43_modes.md` R121 to R126, R129): ECB and CBC block by block, CTR byte by byte, and from these
that decryption undoes encryption. -/

namespace Sys2Proof.Machine

/-! ### The blocks of a byte string -/

theorem blockAt_append_zero (b : Block) (y : List Byte) : blockAt (b.toList ++ y) 0 = b := by
  simp [blockAt]

theorem blockAt_append_succ (b : Block) (y : List Byte) (i : Nat) :
    blockAt (b.toList ++ y) (i + 1) = blockAt y i := by
  rw [blockAt, Nat.mul_succ, Nat.add_comm, ← List.drop_drop, List.drop_left' (by simp)]

theorem byteAt_blockAt (x : List Byte) (p : Nat) : byteAt (blockAt x (p / 16)) (p % 16) = x.getD p 0 := by
  have hp : p % 16 < 16 := Nat.mod_lt _ (by decide)
  rw [byteAt_vecOf _ _ _ hp]
  simp [hp, Nat.div_add_mod]

theorem eq_of_getD {x y : List Byte} (hlen : x.length = y.length)
    (h : ∀ p < x.length, x.getD p 0 = y.getD p 0) : x = y :=
  List.ext_getElem hlen fun p hx hy => by simpa [hx, hy] using h p hx

/-- Strings of whole blocks with equal blocks are equal. -/
theorem eq_of_blockAt {x y : List Byte} (hlen : x.length = y.length) (hwhole : x.length % 16 = 0)
    (h : ∀ i < x.length / 16, blockAt x i = blockAt y i) : x = y :=
  eq_of_getD hlen fun p hp => by rw [← byteAt_blockAt, h (p / 16) (by omega), byteAt_blockAt]

/-- The list of blocks a mode works on has the blocks of the string, in order. -/
theorem vecOf_blocksOf {nb i : Nat} (x : List Byte) (h : i < (blocksOf nb x).length) :
    vecOf 16 (blocksOf nb x)[i] = blockAt x i := by
  induction nb generalizing x i with
  | zero => exact absurd h (Nat.not_lt_zero i)
  | succ nb ih =>
    cases i with
    | zero => rfl
    | succ i =>
      refine (ih (x.drop 16) (Nat.lt_of_succ_lt_succ h)).trans ?_
      simp [blockAt, Nat.mul_succ, Nat.add_comm]

/-! ### ECB and CBC, block by block -/

section

variable (f : Block → Block) (chn : Block) {bs : List (List Byte)} {i : Nat} (hi : i < bs.length)

theorem blockAt_ecbRun : blockAt (ecbRun f bs) i = f (vecOf 16 bs[i]) := by
  induction bs generalizing i with
  | nil => exact absurd hi (Nat.not_lt_zero i)
  | cons b bs ih =>
    rw [ecbRun, List.flatMap_cons]
    cases i with
    | zero => exact blockAt_append_zero _ _
    | succ i => exact (blockAt_append_succ _ _ _).trans (ih (Nat.lt_of_succ_lt_succ hi))

theorem blockAt_cbcEncrypt : blockAt (cbcEncrypt f chn bs) i =
    f (xorBlock (vecOf 16 bs[i]) (if i = 0 then chn else blockAt (cbcEncrypt f chn bs) (i - 1))) := by
  induction bs generalizing chn i with
  | nil => exact absurd hi (Nat.not_lt_zero i)
  | cons b bs ih =>
    rw [cbcEncrypt]
    cases i with
    | zero => exact blockAt_append_zero _ _
    | succ i =>
      rw [blockAt_append_succ, ih _ (Nat.lt_of_succ_lt_succ hi)]
      cases i with
      | zero => simp [blockAt_append_zero]
      | succ i => simp [blockAt_append_succ]

theorem blockAt_cbcDecrypt : blockAt (cbcDecrypt f chn bs) i =
    xorBlock (f (vecOf 16 bs[i])) (if i = 0 then chn else vecOf 16 bs[i - 1]) := by
  induction bs generalizing chn i with
  | nil => exact absurd hi (Nat.not_lt_zero i)
  | cons b bs ih =>
    rw [cbcDecrypt]
    cases i with
    | zero => exact blockAt_append_zero _ _
    | succ i =>
      rw [blockAt_append_succ, ih _ (Nat.lt_of_succ_lt_succ hi)]
      cases i <;> rfl

end

/-- Settles O30: each mode's run has these equations over its list of blocks, which are the string's blocks. -/
theorem ecbAndCbcBlockEquations : Obligations.EcbAndCbcBlockEquations := by
  intro rks nr iv x i hwhole hi
  have hbs : i < (blocksOf (blockCount x.length) x).length := by
    rw [blocksOf_length]
    unfold blockCount
    omega
  refine ⟨fun md dir => modeRun_length md dir rks nr iv x (.inr hwhole), ?_⟩
  rw [← vecOf_blocksOf x hbs, ← vecOf_blocksOf x (Nat.lt_of_le_of_lt (Nat.sub_le i 1) hbs)]
  exact ⟨blockAt_ecbRun _ hbs, blockAt_ecbRun _ hbs, blockAt_cbcEncrypt _ iv hbs, blockAt_cbcDecrypt _ iv hbs⟩

/-! ### CTR, byte by byte -/

theorem getD_xorBytes {a b : List Byte} {p : Nat} (ha : p < a.length) (hb : p < b.length) :
    (xorBytes a b).getD p 0 = a.getD p 0 ^^^ b.getD p 0 := by
  simp [xorBytes, ha, hb]

/-- The first block uses the counter in place; the later ones, 16 bytes on, start from its successor. -/
theorem getD_ctrRun (f : Block → Block) (chn : Block) {nb p : Nat} {x : List Byte} (hp : p < x.length)
    (hnb : p < 16 * nb) :
    (ctrRun f chn (blocksOf nb x)).getD p 0 =
      x.getD p 0 ^^^ byteAt (f (be128inv ((be128 chn + p / 16) % 2 ^ 128))) (p % 16) := by
  induction nb generalizing chn x p with
  | zero => omega
  | succ nb ih =>
    rw [blocksOf, ctrRun]
    by_cases h : p < 16
    · have hchn : be128inv ((be128 chn + p / 16) % 2 ^ 128) = chn := by
        rw [Nat.div_eq_of_lt h, Nat.add_zero, Nat.mod_eq_of_lt (be128_lt chn), be128inv_be128]
      rw [List.getD_append _ _ _ _ (by simp; omega), getD_xorBytes (by simp; omega) (by simpa using h), hchn,
        Nat.mod_eq_of_lt h, byteAt]
      simp [h]
    · have hlen : (xorBytes (x.take 16) (f chn).toList).length = 16 := by simp; omega
      have hctr : (be128 (nextCounter chn) + (p - 16) / 16) % 2 ^ 128 = (be128 chn + p / 16) % 2 ^ 128 := by
        rw [be128_nextCounter, Nat.mod_add_mod, show be128 chn + 1 + (p - 16) / 16 = be128 chn + p / 16 by omega]
      rw [List.getD_append_right _ _ _ _ (by omega), hlen, ih _ (by simp; omega) (by omega), hctr,
        show (p - 16) % 16 = p % 16 by omega]
      simp [show 16 + (p - 16) = p by omega]

theorem getD_modeRun_ctr (dir : Dir) (rks : Vector Byte 240) (nr : Nat) (iv : Block) {x : List Byte} {p : Nat}
    (hp : p < x.length) :
    (modeRun .ctr dir rks nr iv x).getD p 0 =
      x.getD p 0 ^^^ byteAt (cipher rks nr (be128inv ((be128 iv + p / 16) % 2 ^ 128))) (p % 16) :=
  getD_ctrRun _ _ hp (by unfold blockCount; omega)

/-- Settles O31: the keystream by induction over the blocks, the counter by the laws of `be128`. -/
theorem ctrKeystreamAndCounter : Obligations.CtrKeystreamAndCounter :=
  ⟨fun rks nr iv dir x =>
      ⟨modeRun_length .ctr dir rks nr iv x (.inl rfl), fun _ => getD_modeRun_ctr dir rks nr iv⟩,
    fun c => ⟨be128_lt c, be128inv_be128 c, be128_nextCounter c⟩,
    fun n hn => (be128_be128inv n).trans (Nat.mod_eq_of_lt hn), nextCounter_ones⟩

/-! ### Decryption undoes encryption -/

/-- XORing the same keystream twice gives the input back, whatever the directions. -/
theorem modeRun_ctr_modeRun_ctr (dir dir' : Dir) (rks : Vector Byte 240) (nr : Nat) (iv : Block) (x : List Byte) :
    modeRun .ctr dir rks nr iv (modeRun .ctr dir' rks nr iv x) = x := by
  have hlen dir (y : List Byte) := modeRun_length .ctr dir rks nr iv y (.inl rfl)
  refine eq_of_getD ((hlen _ _).trans (hlen _ _)) fun p hp => ?_
  rw [hlen, hlen] at hp
  rw [getD_modeRun_ctr _ _ _ _ (by rwa [hlen]), getD_modeRun_ctr _ _ _ _ hp, BitVec.xor_assoc, BitVec.xor_self,
    BitVec.xor_zero]

/-- Settles O32: in ECB and CBC by the equations of each block, where `InvCipher` undoes `Cipher`. -/
theorem modeRoundTrip : Obligations.ModeRoundTrip := by
  intro md ks rks iv x h
  have hlenc := modeRun_length md .encrypt rks (rounds ks) iv x h
  have hldec := modeRun_length md .decrypt rks (rounds ks) iv _ (hlenc.symm ▸ h)
  by_cases hmd : md = .ctr
  · subst hmd
    exact modeRun_ctr_modeRun_ctr ..
  · have hx := h.resolve_left hmd
    refine eq_of_blockAt (hldec.trans hlenc) (by omega) fun i hi => ?_
    obtain ⟨-, hecbEnc, -, hcbcEnc, -⟩ := ecbAndCbcBlockEquations rks (rounds ks) iv x i hx (by omega)
    obtain ⟨-, -, hecbDec, -, hcbcDec⟩ :=
      ecbAndCbcBlockEquations rks (rounds ks) iv (modeRun md .encrypt rks (rounds ks) iv x) i (by omega) (by omega)
    cases md with
    | ecb => rw [hecbDec, hecbEnc, invCipher_cipher]
    | cbc => rw [hcbcDec, hcbcEnc, invCipher_cipher, xorBlock_self_right]
    | ctr => exact absurd rfl hmd

end Sys2Proof.Machine
end

section
/-! SUPPORT. `APPLY` (`43_modes.md` R127, R128): the causes of the checks it makes, the state it leaves where they pass,
and that a second run leaves the same. -/

namespace Sys2Proof.Machine

/-! ### A second write of the same bytes -/

section

variable (mem : Memory) (a : Nat) (bs : List Byte)

theorem Memory.filter_below_write :
    (mem.write a bs).filter (fun c => decide (c.1 < a)) = mem.filter fun c => decide (c.1 < a) := by
  have hstored : (cellsOf a bs).filter (fun c => decide (c.1 < a)) = [] :=
    List.filter_eq_nil_iff.2 fun c hc => by simpa using (mem_cellsOf hc).1
  have habove : (mem.filter fun c => decide (a + bs.length ≤ c.1)).filter (fun c => decide (c.1 < a)) = [] :=
    List.filter_eq_nil_iff.2 fun c hc => by
      have := of_decide_eq_true (List.mem_filter.1 hc).2
      simp only [decide_eq_true_eq]
      omega
  simp [Memory.write, hstored, habove]

theorem Memory.filter_above_write :
    (mem.write a bs).filter (fun c => decide (a + bs.length ≤ c.1)) =
      mem.filter fun c => decide (a + bs.length ≤ c.1) := by
  have hstored : (cellsOf a bs).filter (fun c => decide (a + bs.length ≤ c.1)) = [] :=
    List.filter_eq_nil_iff.2 fun c hc => by simpa using (mem_cellsOf hc).2.1
  have hbelow : (mem.filter fun c => decide (c.1 < a)).filter (fun c => decide (a + bs.length ≤ c.1)) = [] :=
    List.filter_eq_nil_iff.2 fun c hc => by
      have := of_decide_eq_true (List.mem_filter.1 hc).2
      simp only [decide_eq_true_eq]
      omega
  simp [Memory.write, hstored, hbelow]

theorem Memory.write_write_same : (mem.write a bs).write a bs = mem.write a bs := by
  rw [Memory.write, Memory.filter_below_write, Memory.filter_above_write, Memory.write]

end

section

variable {m : Mode} {md : Option Mode} {dir : Dir} {nr : Nat} {c : Cause} {s : State}

/-! ### The checks and their causes, in their order -/

theorem hasSchedule_of_rkV (hinv : ScheduleInv s) (hrk : s.status.rkV = true) : ∃ ks, s.hasSchedule ks := by
  unfold ScheduleInv at hinv
  split at hinv
  · exact absurd (hrk.symm.trans hinv) (by decide)
  · exact ⟨_, hrk, ‹_›⟩

theorem modeChecks_of_noSchedule (h : s.scheduleRounds = none) :
    modeChecks (some m) s = .error .noKeySchedule := by
  rw [modeChecks, h]

theorem modeChecks_of_noIv (hs : s.scheduleRounds = some nr) (hiv : ¬s.hasIv m) :
    modeChecks (some m) s = .error .missingIv := by
  have hiv : m ≠ .ecb ∧ s.status.ivV = false := by simpa using hiv
  simp only [modeChecks, hs, if_pos hiv]

theorem modeChecks_of_payloadCause (hs : s.scheduleRounds = some nr) (hiv : s.hasIv m)
    (hp : s.payloadCause = some c) : modeChecks (some m) s = .error c := by
  have hiv : ¬(m ≠ .ecb ∧ s.status.ivV = false) := by simpa [or_iff_not_imp_left] using hiv
  simp only [modeChecks, hs, if_neg hiv, hp]

theorem payloadCause_of_above (h : s.bufCap < s.iLen.toNat) : s.payloadCause = some .lengthAboveCapacity :=
  if_pos h

theorem payloadCause_of_zero (h : s.iLen.toNat = 0) : s.payloadCause = some .zeroLengthPayload := by
  rw [State.payloadCause, if_neg (by omega), if_pos h]

theorem wholeBlocksCause_of_short (h : s.iLen.toNat < 16) : s.wholeBlocksCause = some .shorterThanOneBlock :=
  if_pos h

theorem wholeBlocksCause_of_ragged (h : 16 < s.iLen.toNat) (hmod : s.iLen.toNat % 16 ≠ 0) :
    s.wholeBlocksCause = some .notWholeBlocks := by
  rw [State.wholeBlocksCause, if_neg (by omega), if_pos hmod]

/-! ### The errors -/

theorem exec_apply_of_modeChecks_error (h : modeChecks md s = .error c) :
    exec (.apply md dir) s = .next (raise c s.started) :=
  runCommand_error (body := applyBody md dir) (by rw [applyBody, started_modeChecks, h])

theorem exec_apply_of_wholeBlocksCause (h : modeChecks md s = .ok (m, nr)) (hm : m ≠ .ctr)
    (hw : s.wholeBlocksCause = some c) : exec (.apply md dir) s = .next (raise c s.started) :=
  runCommand_error (body := applyBody md dir) (by simp [applyBody, h, hm, hw])

/-- Settles O34: each check's cause, the checks before it passed; the schedule's invariant makes `RKV = 1` enough. -/
theorem applyErrors : Obligations.ApplyErrors := by
  intro s m dir hinv
  refine ⟨exec_apply_of_modeChecks_error (c := .noModeSelected) rfl, fun hrk => ?_, fun hrk => ?_⟩
  · exact exec_apply_of_modeChecks_error (modeChecks_of_noSchedule (scheduleRounds_of_stale hrk))
  · obtain ⟨ks, hks⟩ := hasSchedule_of_rkV hinv hrk
    have hs := scheduleRounds_of_hasSchedule hks
    refine ⟨fun hiv => ?_, fun hiv => ⟨fun hlen => ?_, fun hlen => ?_, fun hm ⟨hzero, hcap⟩ => ?_⟩⟩
    · exact exec_apply_of_modeChecks_error (modeChecks_of_noIv hs hiv)
    · exact exec_apply_of_modeChecks_error (modeChecks_of_payloadCause hs hiv (payloadCause_of_above hlen))
    · exact exec_apply_of_modeChecks_error (modeChecks_of_payloadCause hs hiv (payloadCause_of_zero hlen))
    · have hchecks := modeChecks_eq_ok.2 ⟨rfl, hs, hiv, hcap, hzero⟩
      exact ⟨fun hlen => exec_apply_of_wholeBlocksCause hchecks hm (wholeBlocksCause_of_short hlen),
        fun hlen hmod => exec_apply_of_wholeBlocksCause hchecks hm (wholeBlocksCause_of_ragged hlen hmod)⟩

/-! ### The result -/

/-- The state `APPLY` leaves where its checks pass (R128). -/
def State.applied (m : Mode) (dir : Dir) (nr : Nat) (s : State) : State :=
  { s with mem := s.mem.write obufBase (modeRun m dir s.rks nr s.ivr s.payload), oLen := s.iLen,
           status := doneStatus s.status }

theorem modeRun_payload_length (dir : Dir) (nr : Nat) (hw : m = .ctr ∨ s.wholeBlocksCause = none) :
    (modeRun m dir s.rks nr s.ivr s.payload).length = s.iLen.toNat := by
  have hwhole := hw.imp_right fun h => (wholeBlocksCause_eq_none.1 h).2
  rw [modeRun_length _ _ _ _ _ _ (by rwa [payload_length]), payload_length]

theorem applyBody_of_ok (h : modeChecks md s = .ok (m, nr)) (hw : m = .ctr ∨ s.wholeBlocksCause = none) :
    applyBody md dir s = .ok (s.putOutput (modeRun m dir s.rks nr s.ivr s.payload)) := by
  have hw : (if m = .ctr then none else s.wholeBlocksCause) = none :=
    ite_eq_left_iff.2 (or_iff_not_imp_left.1 hw)
  simp only [applyBody, h, hw]

theorem exec_apply_of_ok (h : modeChecks md s = .ok (m, nr)) (hw : m = .ctr ∨ s.wholeBlocksCause = none) :
    exec (.apply md dir) s = .next (s.applied m dir nr) := by
  have hoLen : BitVec.ofNat 32 (modeRun m dir s.rks nr s.ivr s.payload).length = s.iLen := by
    rw [modeRun_payload_length dir nr hw, BitVec.ofNat_toNat, BitVec.setWidth_eq]
  exact (runCommand_ok (applyBody_of_ok (s := s.started) h hw)).trans
    (congrArg (fun n => Host.Outcome.next { s.applied m dir nr with oLen := n }) hoLen)

/-- Settles O33: what the output has is `ILEN` bytes, so the write's laws give the bytes and the frame. -/
theorem applyResult : Obligations.ApplyResult := by
  intro s m dir ks hks hiv ⟨hzero, hcap⟩ hm
  have hchecks := modeChecks_eq_ok.2 ⟨rfl, scheduleRounds_of_hasSchedule hks, hiv, hcap, hzero⟩
  have hw : m = .ctr ∨ s.wholeBlocksCause = none :=
    hm.imp_right fun h => wholeBlocksCause_eq_none.2 ⟨by omega, h⟩
  have hlen := modeRun_payload_length dir (rounds ks) hw
  refine ⟨_, exec_apply_of_ok hchecks hw, ?_, fun a ha => ?_, rfl⟩
  · rw [← hlen]
    exact Memory.bytes_write s.mem obufBase _
  · exact Memory.read_write_outside s.mem obufBase _ a (hlen.symm ▸ ha)

/-! ### A second run -/

section

variable (hcap : CapInv s) (hlen : s.iLen.toNat ≤ s.bufCap)
include hcap hlen

/-- The payload lies below `OBUF`, where `APPLY` writes. -/
theorem payload_applied : (s.applied m dir nr).payload = s.payload := by
  obtain ⟨-, hcap⟩ := hcap
  refine Memory.bytes_congr fun i (hi : i < s.iLen.toNat) => Memory.read_write_outside _ _ _ _ (.inl ?_)
  unfold ibufBase obufBase
  omega

theorem applied_applied : (s.applied m dir nr).applied m dir nr = s.applied m dir nr := by
  rw [State.applied, payload_applied hcap hlen]
  simp only [State.applied, Memory.write_write_same]

end

end

/-- Settles O35: the first run changes nothing that the checks look at, so the second completes with the same output. -/
theorem applyTwiceIsApplyOnce : Obligations.ApplyTwiceIsApplyOnce := by
  intro s t md dir hcap h hdone
  obtain ⟨u, hu, -⟩ := exec_done h hdone
  obtain ⟨m, nr, hm, hw, -⟩ := applyBody_ok hu
  obtain ⟨-, -, -, hlen, -⟩ := modeChecks_eq_ok.1 hm
  cases h.symm.trans (exec_apply_of_ok (s := s) hm hw)
  rw [exec_apply_of_ok (s := s.applied m dir nr) hm hw, applied_applied hcap hlen]

end Sys2Proof.Machine
end

section
/-! SUPPORT. The padder and the unpadder (`44_padding_transform.md` R136, R138, R139): what each gives, and that one
undoes the other. -/

namespace Sys2Proof.Machine

section

variable {np : Bool} {x y : List Byte}

/-! ### Padding -/

theorem padAdd_aligned (h : x.length % 16 = 0) : padAdd true x = x :=
  if_pos ⟨rfl, by omega⟩

theorem padAdd_eq_append (h : np = false ∨ x.length % 16 ≠ 0) :
    padAdd np x = x ++ List.replicate (16 - x.length % 16) (BitVec.ofNat 8 (16 - x.length % 16)) :=
  if_neg fun ⟨hnp, hp⟩ => h.elim (by simp [hnp]) fun hx => by
    have : 16 - x.length % 16 = 16 := hp
    omega

theorem padAdd_eq_self_or_append (np : Bool) (x : List Byte) :
    padAdd np x = x ∨
      padAdd np x = x ++ List.replicate (16 - x.length % 16) (BitVec.ofNat 8 (16 - x.length % 16)) :=
  ite_eq_or_eq _ _ _

theorem padAdd_prefix (np : Bool) (x : List Byte) : x <+: padAdd np x := by
  rcases padAdd_eq_self_or_append np x with h | h
  · rw [h]
  · rw [h]
    exact List.prefix_append _ _

theorem getD_padAdd_of_lt {i : Nat} (h : i < x.length) : (padAdd np x).getD i 0 = x.getD i 0 := by
  obtain ⟨pad, hpad⟩ := padAdd_prefix np x
  rw [← hpad, List.getD_append _ _ _ _ h]

theorem getD_padAdd_of_ge {i : Nat} (h : x.length ≤ i) (hi : i < (padAdd np x).length) :
    (padAdd np x).getD i 0 = BitVec.ofNat 8 (16 - x.length % 16) := by
  rcases padAdd_eq_self_or_append np x with hpad | hpad
  · rw [hpad] at hi
    omega
  · rw [hpad, List.length_append, List.length_replicate] at hi
    rw [hpad, List.getD_append_right _ _ _ _ h, List.getD_replicate _ (by omega)]

/-! ### Unpadding -/

theorem padRemove_nopkcs (y : List Byte) : padRemove true y = .ok y := rfl

theorem padRemove_of_count {p : Nat} (hp : p = (y.getLastD 0).toNat) (h : 1 ≤ p ∧ p ≤ 16) :
    padRemove false y = .ok (y.take (y.length - p)) := by
  subst hp
  exact if_pos h

theorem padRemove_of_badCount {p : Nat} (hp : p = (y.getLastD 0).toNat) (h : p = 0 ∨ 16 < p) :
    padRemove false y = .error .padCountOutOfRange := by
  subst hp
  exact if_neg (c := 1 ≤ (y.getLastD 0).toNat ∧ (y.getLastD 0).toNat ≤ 16) (by omega)

theorem padRemove_false_eq_ok {out : List Byte} (h : padRemove false y = .ok out) :
    1 ≤ (y.getLastD 0).toNat ∧ (y.getLastD 0).toNat ≤ 16 ∧ out = y.take (y.length - (y.getLastD 0).toNat) := by
  by_cases hp : 1 ≤ (y.getLastD 0).toNat ∧ (y.getLastD 0).toNat ≤ 16
  · rw [padRemove_of_count rfl hp] at h
    exact ⟨hp.1, hp.2, (Except.ok.inj h).symm⟩
  · rw [padRemove_of_badCount rfl (by omega)] at h
    cases h

/-- The count is the last byte; the `p - 1` bytes `z` before it go with it, whatever they hold (R138). -/
theorem padRemove_append (y z : List Byte) (p : Byte) (h1 : 1 ≤ p.toNat) (h16 : p.toNat ≤ 16)
    (hz : z.length = p.toNat - 1) : padRemove false (y ++ z ++ [p]) = .ok y := by
  have hlen : (y ++ z ++ [p]).length - p.toNat = y.length := by simp; omega
  rw [padRemove_of_count (p := p.toNat) (by simp) ⟨h1, h16⟩, hlen]
  simp

/-- A pad of `p` bytes `p` is the last of them, the count, and `p - 1` before it. -/
theorem padRemove_padAdd (h : np = false ∨ x.length % 16 = 0) : padRemove np (padAdd np x) = .ok x := by
  cases np with
  | true => rw [padAdd_aligned (h.resolve_left Bool.true_eq_false_eq_False), padRemove_nopkcs]
  | false =>
    have hp : (BitVec.ofNat 8 (16 - x.length % 16)).toNat = 16 - x.length % 16 := by
      rw [BitVec.toNat_ofNat]
      omega
    have hsplit : 16 - x.length % 16 = (15 - x.length % 16) + 1 := by omega
    rw [padAdd_eq_append (.inl rfl)]
    generalize BitVec.ofNat 8 (16 - x.length % 16) = b at hp
    rw [hsplit, List.replicate_succ', ← List.append_assoc]
    exact padRemove_append x _ b (by omega) (by omega) (by rw [List.length_replicate]; omega)

end

/-- Settles O36: the pad is known byte by byte, and only its last byte is read when it is removed. -/
theorem paddingLaws : Obligations.PaddingLaws := by
  refine ⟨fun _ => padRemove_padAdd (.inl rfl), fun _ => padAdd_aligned, fun _ h => ?_,
    fun _ => padRemove_nopkcs _, padAdd_length_mod, padRemove_append, fun y p hp => ?_⟩
  · rw [padAdd_eq_append (.inr h), padAdd_eq_append (.inl rfl)]
  · exact padRemove_of_badCount (p := p.toNat) (by simp) hp

end Sys2Proof.Machine
end

section
/-! SUPPORT. `PADA` and `PADR` (`44_padding_transform.md` R140, R141), and the state that they and `XFORM` leave where
their checks pass. -/

namespace Sys2Proof.Machine

section

variable {np : Bool} {c : Cause} {s : State} {out : List Byte}

/-! ### The state after an output -/

/-- The state a buffer command leaves where it gives the output `out` (R50, R140, R141, R145). -/
def State.stored (out : List Byte) (s : State) : State :=
  { s with mem := s.mem.write obufBase out, oLen := BitVec.ofNat 32 out.length, status := doneStatus s.status }

theorem exec_of_bodyOf_putOutput {i : Instr} (h : bodyOf i s.started = .ok (s.started.putOutput out)) :
    exec i s = .next (s.stored out) := by
  rw [exec_eq, runCommand_ok h]
  rfl

theorem exec_of_bodyOf_error {i : Instr} (h : bodyOf i s.started = .error c) :
    exec i s = .next (raise c s.started) := by
  rw [exec_eq, runCommand_error h]

theorem stored_read_inside {i : Nat} (h : i < out.length) :
    (s.stored out).mem.read (0x20000 + i) = out.getD i 0 :=
  Memory.read_write_inside s.mem obufBase out i h

theorem stored_read_outside {a : Nat} (h : a < 0x20000 ∨ 0x20000 + out.length ≤ a) :
    (s.stored out).mem.read a = s.mem.read a :=
  Memory.read_write_outside s.mem obufBase out a h

theorem stored_bytes (out : List Byte) (s : State) : (s.stored out).mem.bytes 0x20000 out.length = out :=
  Memory.bytes_write s.mem obufBase out

theorem stored_oLen_eq {n : Word} (h : out.length = n.toNat) : (s.stored out).oLen = n :=
  (congrArg (BitVec.ofNat 32) h).trans ((BitVec.ofNat_toNat 32 n).trans (BitVec.setWidth_eq n))

/-- Nothing but memory, `OLEN` and the outcome in `STATUS` is written. -/
theorem stored_frame {n : Nat} (h : out.length = n) :
    s.stored out =
      { s with mem := (s.stored out).mem, oLen := BitVec.ofNat 32 n, status := doneStatus s.status } := by
  subst h
  rfl

theorem stored_oLen_toNat (hcap : CapInv s) (hfits : out.length ≤ s.bufCap + 16) :
    (s.stored out).oLen.toNat = out.length :=
  putOutput_oLen_toNat (s := s.started) hcap hfits

/-! ### The payload's bytes -/

theorem payload_getD {i : Nat} (h : i < s.iLen.toNat) : s.payload.getD i 0 = s.mem.read (0x10000 + i) :=
  Memory.bytes_getD s.mem ibufBase s.iLen.toNat i h

theorem payload_getLastD (h : s.iLen.toNat ≠ 0) :
    s.payload.getLastD 0 = s.mem.read (0x10000 + (s.iLen.toNat - 1)) := by
  rw [← payload_getD (by omega), List.getLastD_eq_getLast?, List.getLast?_eq_getElem?, payload_length,
    List.getD_eq_getElem?_getD]

theorem payloadCause_of_hasPayload (h : s.hasPayload) : s.payloadCause = none :=
  payloadCause_eq_none.2 h.symm

theorem wholeBlocksCause_of_aligned (h : s.hasPayload) (hmod : s.iLen.toNat % 16 = 0) : s.wholeBlocksCause = none := by
  obtain ⟨hzero, -⟩ := h
  exact wholeBlocksCause_eq_none.2 ⟨by omega, hmod⟩

/-! ### `PADA` and `PADR` -/

theorem padaBody_of_hasPayload (h : s.hasPayload) : padaBody np s = .ok (s.putOutput (padAdd np s.payload)) := by
  rw [padaBody, payloadCause_of_hasPayload h]

theorem padaBody_of_payloadCause (h : s.payloadCause = some c) : padaBody np s = .error c := by
  rw [padaBody, h]

theorem padrBody_of_payloadCause (h : s.payloadCause = some c) : padrBody np s = .error c := by
  rw [padrBody, h]

theorem padrBody_of_wholeBlocksCause (h : s.hasPayload) (hw : s.wholeBlocksCause = some c) :
    padrBody np s = .error c := by
  rw [padrBody, payloadCause_of_hasPayload h, hw]

theorem padrBody_of_aligned (h : s.hasPayload) (hmod : s.iLen.toNat % 16 = 0) :
    padrBody np s = (padRemove np s.payload).map fun out => s.putOutput out := by
  rw [padrBody, payloadCause_of_hasPayload h, wholeBlocksCause_of_aligned h hmod]
  cases padRemove np s.payload <;> rfl

theorem exec_pada_of_hasPayload (h : s.hasPayload) : exec (.pada np) s = .next (s.stored (padAdd np s.payload)) :=
  exec_of_bodyOf_putOutput (padaBody_of_hasPayload (s := s.started) h)

theorem exec_padr_of_padRemove (h : s.hasPayload) (hmod : s.iLen.toNat % 16 = 0)
    (hout : padRemove np s.payload = .ok out) : exec (.padr np) s = .next (s.stored out) :=
  exec_of_bodyOf_putOutput <| (padrBody_of_aligned (s := s.started) h hmod).trans (by rw [started_payload, hout]; rfl)

theorem exec_padr_of_padRemove_error (h : s.hasPayload) (hmod : s.iLen.toNat % 16 = 0)
    (hout : padRemove np s.payload = .error c) : exec (.padr np) s = .next (raise c s.started) :=
  exec_of_bodyOf_error <| (padrBody_of_aligned (s := s.started) h hmod).trans (by rw [started_payload, hout]; rfl)

end

/-- Settles O37: the output is the padded payload, whose bytes and length the laws of the padder give. -/
theorem padaResult : Obligations.PadaResult := by
  intro s np n p _ hpay hp hn
  have hlen : (padAdd np s.payload).length = n := by
    rw [padAdd_length, payload_length, hn, hp]
    split <;> rfl
  refine ⟨_, exec_pada_of_hasPayload hpay, fun i hi => ?_, fun i hge hi => ?_, fun a ha => ?_, stored_frame hlen⟩
  · rw [stored_read_inside (by omega), getD_padAdd_of_lt (by rwa [payload_length]), payload_getD hi]
  · have hcount : p = 16 - s.iLen.toNat % 16 := by
      split at hp
      · omega
      · exact hp
    rw [stored_read_inside (by omega), getD_padAdd_of_ge (by rwa [payload_length]) (by omega), payload_length, hcount]
  · exact stored_read_outside (by rwa [hlen])

/-- Settles O38: both policies give the first `n` bytes of the payload. -/
theorem padrResult : Obligations.PadrResult := by
  intro s np n p _ hpay hmod hp hcount hn
  have hout : padRemove np s.payload = .ok (s.payload.take n) := by
    cases np with
    | true => rw [padRemove_nopkcs, List.take_of_length_le (by rw [payload_length, hn, hp]; rfl)]
    | false =>
      rw [hn, ← payload_length]
      exact padRemove_of_count (hp.trans (congrArg BitVec.toNat (payload_getLastD hpay.1).symm)) (hcount rfl)
  have hlen : (s.payload.take n).length = n := by
    rw [List.length_take, payload_length]
    omega
  refine ⟨_, exec_padr_of_padRemove hpay hmod hout, fun i hi => ?_, fun a ha => ?_, stored_frame hlen⟩
  · rw [stored_read_inside (by omega), ← payload_getD (by omega), List.getD_eq_getElem?_getD,
      List.getElem?_take_of_lt hi, List.getD_eq_getElem?_getD]
  · exact stored_read_outside (by rwa [hlen])

/-- Settles O39: each check's cause, the checks before it passed. -/
theorem paddingCommandErrors : Obligations.PaddingCommandErrors := by
  intro s np
  have hpayload {c : Cause} (h : s.payloadCause = some c) :
      exec (.pada np) s = .next (raise c s.started) ∧ exec (.padr np) s = .next (raise c s.started) :=
    ⟨exec_of_bodyOf_error (padaBody_of_payloadCause (s := s.started) h),
      exec_of_bodyOf_error (padrBody_of_payloadCause (s := s.started) h)⟩
  have hwhole {c : Cause} (hpay : s.hasPayload) (h : s.wholeBlocksCause = some c) :
      exec (.padr np) s = .next (raise c s.started) :=
    exec_of_bodyOf_error (padrBody_of_wholeBlocksCause (s := s.started) hpay h)
  refine ⟨fun hlen => hpayload (payloadCause_of_above hlen), fun hlen => hpayload (payloadCause_of_zero hlen),
    fun hpay => ⟨fun hlen => hwhole hpay (wholeBlocksCause_of_short hlen),
      fun hlen hmod => hwhole hpay (wholeBlocksCause_of_ragged hlen hmod), fun hmod p hp hbad => ?_⟩⟩
  rw [← payload_getLastD hpay.1] at hp
  exact exec_padr_of_padRemove_error hpay hmod (padRemove_of_badCount hp hbad)

end Sys2Proof.Machine
end

section
/-! SUPPORT. `Transform` and `XFORM` (`44_padding_transform.md` R135, R143 to R146): the checks and their causes, the
state left where they pass, and that decryption gives back what was encrypted. -/

namespace Sys2Proof.Machine

/-! ### `Transform` -/

section

variable {m : Mode} {np : Bool} {rks : Vector Byte 240} {nr : Nat} {iv : Block} {x out : List Byte}

theorem transform_ctr (dir : Dir) :
    transform .ctr dir np rks nr iv x = .ok (modeRun .ctr dir rks nr iv x) := rfl

theorem transform_encrypt (hm : m ≠ .ctr) :
    transform m .encrypt np rks nr iv x = .ok (modeRun m .encrypt rks nr iv (padAdd np x)) :=
  if_neg hm

theorem transform_decrypt (hm : m ≠ .ctr) :
    transform m .decrypt np rks nr iv x = padRemove np (modeRun m .decrypt rks nr iv x) :=
  if_neg hm

theorem transform_encrypt_length (hm : m ≠ .ctr) (h : transform m .encrypt np rks nr iv x = .ok out) :
    out.length = (padAdd np x).length := by
  rw [transform_encrypt hm] at h
  rw [← Except.ok.inj h, modeRun_length _ _ _ _ _ _ (.inr (padAdd_length_mod np x))]

theorem transform_encrypt_length_mod (hm : m ≠ .ctr) (h : transform m .encrypt np rks nr iv x = .ok out) :
    out.length % 16 = 0 := by
  rw [transform_encrypt_length hm h, padAdd_length_mod]

theorem transform_ctr_length {dir : Dir} (h : transform .ctr dir np rks nr iv x = .ok out) :
    out.length = x.length := by
  rw [transform_ctr] at h
  rw [← Except.ok.inj h, modeRun_length _ _ _ _ _ _ (.inl rfl)]

theorem le_transform_encrypt_length (h : transform m .encrypt np rks nr iv x = .ok out) :
    x.length ≤ out.length := by
  by_cases hm : m = .ctr
  · subst hm
    exact (transform_ctr_length h).ge
  · rw [transform_encrypt_length hm h]
    exact (padAdd_prefix np x).length_le

/-- R146 for every plaintext, the empty one included: the mode's round trip gives the padded plaintext, and
unpadding the plaintext. -/
theorem transform_decrypt_of_encrypt {ks : KeySize} (h : m = .ctr ∨ np = false ∨ x.length % 16 = 0)
    (hout : transform m .encrypt np rks (rounds ks) iv x = .ok out) :
    transform m .decrypt np rks (rounds ks) iv out = .ok x := by
  by_cases hm : m = .ctr
  · subst hm
    cases hout
    rw [transform_ctr, modeRun_ctr_modeRun_ctr]
  · rw [transform_encrypt hm] at hout
    cases hout
    rw [transform_decrypt hm, modeRoundTrip m ks rks iv _ (.inr (padAdd_length_mod np x)),
      padRemove_padAdd (h.resolve_left hm)]

end

/-- Settles O44: a special case of the round trip of every plaintext. -/
theorem transformRoundTrip : Obligations.TransformRoundTrip :=
  fun _ _ _ _ _ _ _ _ h hout => transform_decrypt_of_encrypt h hout

/-! ### `XFORM` -/

section

variable {m : Mode} {md : Option Mode} {dir : Dir} {np : Bool} {nr : Nat} {c : Cause} {s t : State}
  {ks : KeySize} {out : List Byte}

theorem xformBody_of_modeChecks_error (h : modeChecks md s = .error c) : xformBody md dir np s = .error c := by
  rw [xformBody, h]

theorem xformBody_of_wholeBlocksCause (h : modeChecks md s = .ok (m, nr)) (hm : m ≠ .ctr)
    (hw : s.wholeBlocksCause = some c) : xformBody md .decrypt np s = .error c := by
  simp [xformBody, h, hm, hw]

theorem xformBody_of_checks (h : modeChecks md s = .ok (m, nr))
    (hw : m ≠ .ctr → dir = .decrypt → s.wholeBlocksCause = none) :
    xformBody md dir np s = (transform m dir np s.rks nr s.ivr s.payload).map fun out => s.putOutput out := by
  have hw : (if m ≠ .ctr ∧ dir = .decrypt then s.wholeBlocksCause else none) = none :=
    ite_eq_right_iff.2 fun ⟨hm, hdir⟩ => hw hm hdir
  simp only [xformBody, h, hw]
  cases transform m dir np s.rks nr s.ivr s.payload <;> rfl

theorem exec_xform_of_modeChecks_error (h : modeChecks md s = .error c) :
    exec (.xform md dir np) s = .next (raise c s.started) :=
  exec_of_bodyOf_error (xformBody_of_modeChecks_error (s := s.started) h)

theorem exec_xform_of_wholeBlocksCause (h : modeChecks md s = .ok (m, nr)) (hm : m ≠ .ctr)
    (hw : s.wholeBlocksCause = some c) : exec (.xform md .decrypt np) s = .next (raise c s.started) :=
  exec_of_bodyOf_error (xformBody_of_wholeBlocksCause (s := s.started) h hm hw)

theorem exec_xform_of_transform_error (h : modeChecks md s = .ok (m, nr))
    (hw : m ≠ .ctr → dir = .decrypt → s.wholeBlocksCause = none)
    (hout : transform m dir np s.rks nr s.ivr s.payload = .error c) :
    exec (.xform md dir np) s = .next (raise c s.started) :=
  exec_of_bodyOf_error <| (xformBody_of_checks (s := s.started) h hw).trans
    (congrArg (Except.map fun out => s.started.putOutput out) hout)

/-- What `XFORM` needs of the state to complete with the output `out` (R145). -/
structure XformGives (m : Mode) (dir : Dir) (np : Bool) (ks : KeySize) (s : State) (out : List Byte) : Prop where
  schedule : s.hasSchedule ks
  iv : s.hasIv m
  payload : s.hasPayload
  aligned : m ≠ .ctr → dir = .decrypt → s.iLen.toNat % 16 = 0
  output : transform m dir np s.rks (rounds ks) s.ivr s.payload = .ok out

theorem modeChecks_of_state (hks : s.hasSchedule ks) (hiv : s.hasIv m) (hpay : s.hasPayload) :
    modeChecks (some m) s = .ok (m, rounds ks) :=
  modeChecks_eq_ok.2 ⟨rfl, scheduleRounds_of_hasSchedule hks, hiv, hpay.symm⟩

theorem exec_xform_of_gives (h : XformGives m dir np ks s out) :
    exec (.xform (some m) dir np) s = .next (s.stored out) :=
  exec_of_bodyOf_putOutput <| (xformBody_of_checks (s := s.started)
      (modeChecks_of_state h.schedule h.iv h.payload)
      fun hm hdir => wholeBlocksCause_of_aligned h.payload (h.aligned hm hdir)).trans
    (congrArg (Except.map fun out => s.started.putOutput out) h.output)

theorem exec_xform_done (h : exec (.xform (some m) dir np) s = .next t) (hdone : t.status.done = true) :
    ∃ ks out, XformGives m dir np ks s out ∧ t = s.stored out := by
  obtain ⟨u, hu, rfl⟩ := exec_done h hdone
  obtain ⟨_, nr, hchecks, hw, out, hout, rfl⟩ := xformBody_ok hu
  obtain ⟨⟨⟩, hs, hiv, hlen⟩ := modeChecks_eq_ok.1 hchecks
  obtain ⟨hrk, ks, hks, rfl⟩ := scheduleRounds_eq_some.1 hs
  exact ⟨ks, out, ⟨⟨hrk, hks⟩, hiv, hlen.symm,
    fun hm hdir => (wholeBlocksCause_eq_none.1 (hw hm hdir)).2, hout⟩, rfl⟩

theorem XformGives.length_le (h : XformGives m dir np ks s out) : out.length ≤ s.bufCap + 16 := by
  obtain ⟨-, -, hpay, haligned, hout⟩ := h
  exact xformBody_output_fits hpay.2 (fun hm hdir => wholeBlocksCause_of_aligned hpay (haligned hm hdir)) hout

end

/-- Settles O40: the three cases of R143 are `Transform`'s. -/
theorem xformResult : Obligations.XformResult := by
  intro s m dir np ks out _ hks hiv hpay haligned hctr henc hdec
  have hout : transform m dir np s.rks (rounds ks) s.ivr s.payload = .ok out := by
    by_cases hm : m = .ctr
    · rw [hctr hm, hm, transform_ctr]
    · cases dir with
      | encrypt => rw [henc hm rfl, transform_encrypt hm]
      | decrypt => rw [transform_decrypt hm, hdec hm rfl]
  exact ⟨_, exec_xform_of_gives ⟨hks, hiv, hpay, haligned, hout⟩, stored_bytes out s,
    fun _ ha => stored_read_outside ha, rfl⟩

/-- Settles O41: `OLEN` counts the bytes `Transform` gives: the mode keeps the length, only the padder changes it. -/
theorem xformOutputLength : Obligations.XformOutputLength := by
  intro s t m dir np hcap h hdone
  obtain ⟨ks, out, hgives, rfl⟩ := exec_xform_done h hdone
  have holen := stored_oLen_toNat hcap hgives.length_le
  obtain ⟨hks, -, hpay, haligned, hout⟩ := hgives
  have heq (hlen : out.length = s.payload.length) := stored_oLen_eq (s := s) (hlen.trans (payload_length s))
  refine ⟨fun hm => ?_, fun hm hdir hnp hmod => ?_, fun hm hdir hpad => ?_, fun hm hdir hnp => ?_,
    fun hm hdir hnp => ?_⟩
  · subst hm
    exact heq (transform_ctr_length hout)
  · subst hdir hnp
    exact heq (by rw [transform_encrypt_length hm hout, padAdd_aligned (by rwa [payload_length])])
  · subst hdir
    have hlen := transform_encrypt_length hm hout
    rw [padAdd_length, payload_length, if_neg fun ⟨hnp, hmod⟩ => hpad.elim (by simp [hnp]) (absurd hmod)] at hlen
    omega
  · subst hdir hnp
    rw [transform_decrypt hm, padRemove_nopkcs] at hout
    cases hout
    exact heq (modeRun_length _ _ _ _ _ _ (.inr (by rw [payload_length]; exact haligned hm rfl)))
  · subst hdir hnp
    rw [transform_decrypt hm] at hout
    obtain ⟨h1, h16, rfl⟩ := padRemove_false_eq_ok hout
    refine ⟨ks, _, hks, rfl, h1, h16, ?_⟩
    have hmod := haligned hm rfl
    obtain ⟨hzero, -⟩ := hpay
    rw [holen, List.length_take, modeRun_length _ _ _ _ _ _ (.inr (by rwa [payload_length])), payload_length]
    omega

/-- Settles O42: each check's cause, the checks before it passed; the pad count is read from what the mode gives. -/
theorem xformErrors : Obligations.XformErrors := by
  intro s m dir np hinv
  refine ⟨exec_xform_of_modeChecks_error (c := .noModeSelected) rfl, fun hrk => ?_, fun hrk => ?_⟩
  · exact exec_xform_of_modeChecks_error (modeChecks_of_noSchedule (scheduleRounds_of_stale hrk))
  · obtain ⟨ks, hks⟩ := hasSchedule_of_rkV hinv hrk
    have hs := scheduleRounds_of_hasSchedule hks
    refine ⟨fun hiv => ?_, fun hiv => ⟨fun hlen => ?_, fun hlen => ?_, fun hm hdir hpay => ?_⟩⟩
    · exact exec_xform_of_modeChecks_error (modeChecks_of_noIv hs hiv)
    · exact exec_xform_of_modeChecks_error (modeChecks_of_payloadCause hs hiv (payloadCause_of_above hlen))
    · exact exec_xform_of_modeChecks_error (modeChecks_of_payloadCause hs hiv (payloadCause_of_zero hlen))
    · subst hdir
      have hchecks := modeChecks_of_state hks hiv hpay
      refine ⟨fun hlen => exec_xform_of_wholeBlocksCause hchecks hm (wholeBlocksCause_of_short hlen),
        fun hlen hmod => exec_xform_of_wholeBlocksCause hchecks hm (wholeBlocksCause_of_ragged hlen hmod),
        fun ks' p hks' hmod hnp hp hbad => ?_⟩
      subst hnp
      refine exec_xform_of_transform_error (c := .padCountOutOfRange) (modeChecks_of_state hks' hiv hpay)
        (fun _ _ => wholeBlocksCause_of_aligned hpay hmod) ?_
      rw [transform_decrypt hm, padRemove_of_badCount hp hbad]

/-- Settles O45: the output of `s` is whole blocks where the mode needs them, so `s'` passes every check, and the round
trip gives the payload of `s`. -/
theorem xformDecryptsWhatItEncrypted : Obligations.XformDecryptsWhatItEncrypted := by
  intro s t s' m np hcap _ hround h hdone hrk hsize hrks hivr hivV hiLen holenCap hpayload
  obtain ⟨ks, out, hgives, rfl⟩ := exec_xform_done h hdone
  have holen := stored_oLen_toNat hcap hgives.length_le
  obtain ⟨⟨-, hks⟩, hiv, ⟨hzero, -⟩, -, hout⟩ := hgives
  have hlen : s'.iLen.toNat = out.length := hiLen ▸ holen
  have hle := le_transform_encrypt_length hout
  rw [payload_length] at hle
  rw [holen, stored_bytes] at hpayload
  have hgives' : XformGives m .decrypt np ks s' s.payload :=
    { schedule := ⟨hrk, hsize ▸ hks⟩
      iv := hiv.imp_right hivV.trans
      payload := ⟨by omega, hiLen ▸ holenCap⟩
      aligned := fun hm _ => hlen ▸ transform_encrypt_length_mod hm hout
      output := by
        rw [hrks, hivr, hpayload]
        exact transform_decrypt_of_encrypt (by rwa [payload_length]) hout }
  have hoLen : (s'.stored s.payload).oLen = s.iLen := stored_oLen_eq (payload_length s)
  refine ⟨_, exec_xform_of_gives hgives', rfl, hoLen, ?_⟩
  rw [hoLen, ← payload_length]
  exact stored_bytes s.payload s'

/-! ### CTR -/

/-- The body `APPLY` and `XFORM` share in CTR, whatever the direction and the policy (R126, R135). -/
def ctrBody (s : State) : Except Cause State :=
  (modeChecks (some .ctr) s).map fun c => s.putOutput (modeRun .ctr .encrypt s.rks c.2 s.ivr s.payload)

theorem applyBody_ctr (dir : Dir) (s : State) : applyBody (some .ctr) dir s = ctrBody s := by
  cases h : modeChecks (some .ctr) s with
  | error c =>
    rw [applyBody, ctrBody, h]
    rfl
  | ok r =>
    obtain ⟨m, nr⟩ := r
    obtain ⟨⟨⟩, -⟩ := modeChecks_eq_ok.1 h
    rw [applyBody_of_ok h (.inl rfl), ctrBody, h]
    rfl

theorem xformBody_ctr (dir : Dir) (np : Bool) (s : State) : xformBody (some .ctr) dir np s = ctrBody s := by
  cases h : modeChecks (some .ctr) s with
  | error c =>
    rw [xformBody_of_modeChecks_error h, ctrBody, h]
    rfl
  | ok r =>
    obtain ⟨m, nr⟩ := r
    obtain ⟨⟨⟩, -⟩ := modeChecks_eq_ok.1 h
    rw [xformBody_of_checks h fun hm => absurd rfl hm, ctrBody, h]
    rfl

theorem exec_apply_ctr (dir : Dir) (s : State) : exec (.apply (some .ctr) dir) s = runCommand ctrBody s :=
  congrArg (fun body => runCommand body s) (funext (applyBody_ctr dir))

theorem exec_xform_ctr (dir : Dir) (np : Bool) (s : State) :
    exec (.xform (some .ctr) dir np) s = runCommand ctrBody s :=
  congrArg (fun body => runCommand body s) (funext (xformBody_ctr dir np))

/-- Settles O43: the commands run one body. -/
theorem ctrNeverPads : Obligations.CtrNeverPads :=
  fun s dir dir' np => ⟨(exec_xform_ctr dir np s).trans (exec_apply_ctr dir s).symm,
    (exec_apply_ctr dir s).trans (exec_apply_ctr dir' s).symm⟩

end Sys2Proof.Machine
end

section
/-! SUPPORT. The derivations `DRAW`, `DIV` and `STRETCH` (`45_key_derivation.md` R150 to R165): for each command the
causes of its checks in their order, the one state it leaves where they pass, and that state's bytes. -/

namespace Sys2Proof.Machine

/-! ### The bytes of a prefix -/

theorem getD_take (l : List Byte) (n j : Nat) : (l.take n).getD j 0 = if j < n then l.getD j 0 else 0 := by
  simp only [List.getD_eq_getElem?_getD, List.getElem?_take]
  split <;> rfl

/-- What lies past the end of the array does not matter. -/
theorem vecOf_take (n : Nat) (l : List Byte) : vecOf n (l.take n) = vecOf n l :=
  eq_of_byteAt fun j hj => by rw [byteAt_vecOf _ _ _ hj, byteAt_vecOf _ _ _ hj, getD_take, if_pos hj]

/-- The size in force where one may be given and `k'` stands for an unspecified one (R151, R160). -/
theorem eq_getD_of_given_or_not {ks : Option KeySize} {k k' : KeySize} (hgiven : ∀ a, ks = some a → k = a)
    (hnot : ks = none → k = k') : k = ks.getD k' := by
  cases ks with
  | none => exact hnot rfl
  | some a => exact hgiven a rfl

/-! ### `DRAW` -/

section

variable {ks : Option KeySize} {k : KeySize} {q : Bool} {s : State}

/-- The key `DRAW` makes at size `k` (R152). -/
def State.drawnKey (k : KeySize) (s : State) : Vector Byte 32 :=
  vecOf 32 (s.keyMaterial.take (min 32 (min s.kmLen.toNat (keyBytes k))))

/-- The state `DRAW` leaves at size `k` where its checks pass (R152). -/
def State.keyDrawn (k : KeySize) (q : Bool) (s : State) : State :=
  { s with key := s.drawnKey k, kSize := k.code, rkSize := 3,
           status := { doneStatus s.status with
             keyV := true, rkV := false,
             advS := !q && decide (s.kmLen.toNat < keyBytes k),
             advL := !q && decide (keyBytes k < s.kmLen.toNat) } }

theorem drawBody_of_above (h : 64 < s.kmLen.toNat) : drawBody ks q s = .error .lengthAboveCapacity :=
  if_pos h

theorem drawBody_of_noMaterial (h : s.kmLen.toNat = 0) : drawBody ks q s = .error .missingKeyMaterial :=
  (if_neg (by omega)).trans (if_pos h)

theorem exec_draw_of_material (hzero : s.kmLen.toNat ≠ 0) (hcap : s.kmLen.toNat ≤ 64) :
    exec (.draw ks q) s = .next (s.keyDrawn (ks.getD (inferBits s.kmLen.toNat)) q) :=
  runCommand_ok (body := drawBody ks q) ((if_neg (by simpa using hcap)).trans (if_neg hzero))

theorem byteAt_drawnKey {j : Nat} (hj : j < 32) :
    byteAt (s.drawnKey k) j = if j < s.kmLen.toNat ∧ j < keyBytes k then s.mem.read (0x280 + j) else 0 := by
  rw [State.drawnKey, byteAt_vecOf _ _ _ hj, getD_take]
  by_cases h : j < s.kmLen.toNat ∧ j < keyBytes k
  · rw [if_pos (by omega), if_pos h]
    exact Memory.bytes_getD s.mem kmatBase s.kmLen.toNat j h.1
  · rw [if_neg (by omega), if_neg h]

end

/-- Settles O46: the size in force is the one given, or else the one inferred. -/
theorem drawResult : Obligations.DrawResult := by
  rintro s ks q n k rfl hzero hcap hgiven hinferred
  obtain rfl : k = ks.getD (inferBits s.kmLen.toNat) := eq_getD_of_given_or_not hgiven hinferred
  exact ⟨_, exec_draw_of_material hzero hcap, fun j hj => byteAt_drawnKey hj, rfl⟩

/-! ### Decoding of digits -/

theorem length_nibDecode (ds : List Nibble) : (nibDecode ds).length = (ds.length + 1) / 2 := by
  induction ds using nibDecode.induct with
  | case1 => rfl
  | case2 d => simp [nibDecode]
  | case3 h l rest ih =>
    simp only [nibDecode, List.length_cons, ih]
    omega

theorem getD_nibDecode (ds : List Nibble) (j : Nat) :
    (nibDecode ds).getD j 0 = ds.getD (2 * j) 0 ++ ds.getD (2 * j + 1) 0 := by
  induction ds using nibDecode.induct generalizing j with
  | case1 => simp [nibDecode]
  | case2 d =>
    cases j with
    | zero => rfl
    | succ j => simp [nibDecode, Nat.mul_succ]
  | case3 h l rest ih =>
    cases j with
    | zero => rfl
    | succ j => exact ih j

/-! ### `DIV` -/

section

variable {q : Bool} {s : State}

theorem ivDigits_length (s : State) : s.ivDigits.length = s.ivnLen.toNat := by
  simp [State.ivDigits]

theorem ivDigits_getD (s : State) (i : Nat) : s.ivDigits.getD i 0 = ivDigit s i := by
  by_cases h : i < s.ivnLen.toNat
  · rw [ivDigit, if_pos h, List.getD_eq_getElem _ _ (by rwa [ivDigits_length])]
    simp [State.ivDigits, Memory.bytes, ivnibBase]
  · rw [ivDigit, if_neg h, List.getD_eq_default _ _ (by rw [ivDigits_length]; omega)]

/-- The state `DIV` leaves from digits where its check passes (R157). -/
def State.ivDecoded (q : Bool) (s : State) : State :=
  { s with ivr := vecOf 16 (nibDecode s.ivDigits),
           status := { doneStatus s.status with
             ivV := true,
             advS := !q && decide ((s.ivnLen.toNat + 1) / 2 < 16),
             advL := !q && decide (16 < (s.ivnLen.toNat + 1) / 2) } }

/-- The state `DIV random` leaves (R157, R163). -/
def State.ivRandom (s : State) : State :=
  { s with ivr := vecOf 16 (s.randBytes 16), randCount := s.randCount + 16,
           status := { doneStatus s.status with ivV := true } }

theorem divBody_of_above (h : 64 < s.ivnLen.toNat) : divBody q false s = .error .lengthAboveCapacity :=
  if_pos h

theorem divBody_of_digits (h : s.ivnLen.toNat ≤ 64) :
    divBody q false s =
      .ok { s.putIvr (vecOf 16 (nibDecode s.ivDigits)) with
            status := s.status.ivWritten.advise q ((s.ivnLen.toNat + 1) / 2) 16 } := by
  have hlen : (nibDecode s.ivDigits).length = (s.ivnLen.toNat + 1) / 2 := by
    rw [length_nibDecode, ivDigits_length]
  have hiv : vecOf 16 ((nibDecode s.ivDigits).take (min 16 (nibDecode s.ivDigits).length)) =
      vecOf 16 (nibDecode s.ivDigits) := by
    rw [← List.take_eq_take_min, vecOf_take]
  rw [divBody, if_neg Bool.false_ne_true, if_neg (Nat.not_lt.2 h)]
  dsimp only
  rw [hiv, hlen]
  rfl

theorem exec_div_of_digits (h : s.ivnLen.toNat ≤ 64) : exec (.div q false) s = .next (s.ivDecoded q) :=
  runCommand_ok (body := divBody q false) (divBody_of_digits (s := s.started) h)

theorem exec_div_random (q : Bool) (s : State) : exec (.div q true) s = .next s.ivRandom := rfl

theorem randBytes_getD {n j : Nat} (h : j < n) : (s.randBytes n).getD j 0 = Config.randByte (s.randCount + j) := by
  rw [List.getD_eq_getElem _ _ (by simpa [State.randBytes] using h)]
  simp [State.randBytes]

end

/-- Settles O47: a byte is a pair of digits, and there are half as many, rounded up. -/
theorem divResult : Obligations.DivResult := by
  refine fun s q h => ⟨_, exec_div_of_digits h, fun j hj => ?_, rfl⟩
  rw [State.ivDecoded, byteAt_vecOf _ _ _ hj, getD_nibDecode, ivDigits_getD, ivDigits_getD]

/-- Settles O48: no check is made. -/
theorem divRandomResult : Obligations.DivRandomResult := by
  refine fun s q => ⟨_, exec_div_random q s, fun j hj => ?_, rfl⟩
  rw [State.ivRandom, byteAt_vecOf _ _ _ hj, randBytes_getD hj]

/-! ### `STRETCH` -/

theorem byteAt_keySlice (T : Vector Byte 48) {j : Nat} (hj : j < 32) : byteAt (keySlice T) j = byteAt T j :=
  byteAt_vecOf _ _ _ hj

theorem byteAt_ivSlice (k : KeySize) (T : Vector Byte 48) {j : Nat} (hj : j < 16) :
    byteAt (ivSlice k T) j = byteAt T (keyBytes k + j) := by
  rw [ivSlice, byteAt_vecOf _ _ _ hj, byteAt, List.getD_eq_getElem?_getD, List.getElem?_drop,
    ← List.getD_eq_getElem?_getD]

/-- The state `STRETCH` leaves of the stretched material `T` at size `k` (R159, R160). -/
def State.stretched (k : KeySize) (T : Vector Byte 48) (s : State) : State :=
  { s with str := T, key := keySlice T, ivr := ivSlice k T, kSize := k.code, rkSize := 3,
           status := { doneStatus s.status with keyV := true, ivV := true, rkV := false } }

/-- The length registers let `STRETCH` ask for stretched material (R160). -/
abbrev State.canStretch (s : State) : Prop :=
  s.pwLen.toNat ≠ 0 ∧ s.pwLen.toNat ≤ 256 ∧ s.sLen.toNat ≤ 64

section

variable {ks : Option KeySize} {kdf : Kdf} {s : State}

theorem stretch_lengths_fit (hpw : s.pwLen.toNat ≤ 256) (hsalt : s.sLen.toNat ≤ 64) :
    ¬(Config.pwCap < s.pwLen.toNat ∨ Config.saltCap < s.sLen.toNat) :=
  not_or.2 ⟨Nat.not_lt.2 hpw, Nat.not_lt.2 hsalt⟩

theorem stretchBody_of_above (h : 256 < s.pwLen.toNat ∨ 64 < s.sLen.toNat) :
    stretchBody ks kdf s = .error .lengthAboveCapacity :=
  if_pos h

theorem stretchBody_of_noPassword (hpw : s.pwLen.toNat = 0) (hsalt : s.sLen.toNat ≤ 64) :
    stretchBody ks kdf s = .error .missingKeyMaterial :=
  (if_neg (stretch_lengths_fit (by omega) hsalt)).trans (if_pos hpw)

theorem stretchBody_of_rejected (h : s.canStretch) (hT : stretchMaterial kdf s = none) :
    stretchBody ks kdf s = .error .stretchRejected := by
  obtain ⟨hzero, hpw, hsalt⟩ := h
  rw [stretchBody, if_neg (stretch_lengths_fit hpw hsalt), if_neg hzero, hT]

theorem stretchBody_of_material {T : Vector Byte 48} (h : s.canStretch) (hT : stretchMaterial kdf s = some T) :
    stretchBody ks kdf s =
      .ok ((({ s with str := T }.putKSize (ks.getD .k256).code).putKey (keySlice T)).putIvr
        (ivSlice (ks.getD .k256) T)) := by
  obtain ⟨hzero, hpw, hsalt⟩ := h
  rw [stretchBody, if_neg (stretch_lengths_fit hpw hsalt), if_neg hzero, hT]

theorem started_stretchMaterial (kdf : Kdf) (s : State) : stretchMaterial kdf s.started = stretchMaterial kdf s := by
  cases kdf <;> rfl

theorem exec_stretch_of_material {T : Vector Byte 48} (h : s.canStretch) (hT : stretchMaterial kdf s = some T) :
    exec (.stretch ks kdf) s = .next (s.stretched (ks.getD .k256) T) :=
  runCommand_ok (body := stretchBody ks kdf)
    (stretchBody_of_material (s := s.started) h ((started_stretchMaterial kdf s).trans hT))

/-- No input of the derivation is written. -/
theorem stretchMaterial_stretched (kdf : Kdf) (k : KeySize) (T : Vector Byte 48) (s : State) :
    stretchMaterial kdf (s.stretched k T) = stretchMaterial kdf s := by
  cases kdf <;> rfl

end

/-- Settles O49: `T` is the stretched material, by either function. -/
theorem stretchResult : Obligations.StretchResult := by
  intro s ks kdf k T hzero hpw hsalt hgiven hdefault hpbkdf2 hargon2id
  obtain rfl : k = ks.getD .k256 := eq_getD_of_given_or_not hgiven hdefault
  have hT : stretchMaterial kdf s = some T := by
    cases kdf with
    | pbkdf2 => exact congrArg some (hpbkdf2 rfl).symm
    | argon2id => exact hargon2id rfl
  exact ⟨_, exec_stretch_of_material ⟨hzero, hpw, hsalt⟩ hT, fun j hj => byteAt_keySlice T hj,
    fun j hj => byteAt_ivSlice _ T hj, rfl⟩

/-! ### The iteration floor -/

section

variable {ks : Option KeySize} {kdf : Kdf} {a b : Word}

theorem iterations_of_le (h : a.toNat ≤ 1000) : iterations a = 1000 :=
  max_eq_right h

theorem stretchMaterial_iter (h : kdf = .argon2id ∨ (a.toNat ≤ 1000 ∧ b.toNat ≤ 1000)) (s : State) :
    stretchMaterial kdf { s with iter := a } = stretchMaterial kdf { s with iter := b } := by
  cases kdf with
  | argon2id => rfl
  | pbkdf2 =>
    obtain ⟨ha, hb⟩ := h.resolve_left (by decide)
    exact congrArg (fun n => some (vecOf 48 (pbkdf2 s.password s.salt n 48)))
      ((iterations_of_le ha).trans (iterations_of_le hb).symm)

/-- Beyond the stretched material, `STRETCH` does not look at `ITER`. -/
theorem stretchBody_iter {s : State}
    (h : stretchMaterial kdf { s with iter := a } = stretchMaterial kdf { s with iter := b }) :
    stretchBody ks kdf { s with iter := b } =
      (stretchBody ks kdf { s with iter := a }).map fun t => { t with iter := b } := by
  simp only [stretchBody, h]
  split
  · rfl
  · split
    · rfl
    · cases stretchMaterial kdf { s with iter := b } <;> rfl

end

/-- Settles O51: counts of at most 1000 stretch to one material, and `ITER` is not looked at again. -/
theorem iterationFloor : Obligations.IterationFloor := by
  intro s ks kdf a b t h ht
  have hbody : stretchBody ks kdf (State.started { s with iter := b }) =
      (stretchBody ks kdf (State.started { s with iter := a })).map fun t => { t with iter := b } :=
    stretchBody_iter (stretchMaterial_iter h s.started)
  rcases runCommand_next (body := stretchBody ks kdf) ht with ⟨u, hu, rfl⟩ | ⟨c, hc, rfl⟩
  · rw [hu] at hbody
    exact runCommand_ok (body := stretchBody ks kdf) hbody
  · rw [hc] at hbody
    exact runCommand_error (body := stretchBody ks kdf) hbody

/-! ### The three commands -/

/-- Settles O52: each check's cause, the checks before it passed. -/
theorem derivationErrors : Obligations.DerivationErrors := by
  intro s ks kdf q
  refine ⟨fun h => ?_, fun h => ?_, fun h => ?_, fun h => ?_, fun hpw hsalt => ?_, fun hzero hpw hsalt hT => ?_⟩
  · exact exec_of_bodyOf_error (i := .draw ks q) (drawBody_of_above (s := s.started) h)
  · exact exec_of_bodyOf_error (i := .draw ks q) (drawBody_of_noMaterial (s := s.started) h)
  · exact exec_of_bodyOf_error (i := .div q false) (divBody_of_above (s := s.started) h)
  · exact exec_of_bodyOf_error (i := .stretch ks kdf) (stretchBody_of_above (s := s.started) h)
  · exact exec_of_bodyOf_error (i := .stretch ks kdf) (stretchBody_of_noPassword (s := s.started) hpw hsalt)
  · exact exec_of_bodyOf_error (i := .stretch ks .argon2id)
      (stretchBody_of_rejected (s := s.started) ⟨hzero, hpw, hsalt⟩ hT)

/-- Settles O53: no derivation writes what it is made from, so the second makes the same of it. -/
theorem derivationIsIdempotent : Obligations.DerivationIsIdempotent := by
  refine fun s t ks kdf q hdone => ⟨fun h => ?_, fun h => ?_, fun h => ?_⟩
  · obtain ⟨u, hu, -⟩ := exec_done h hdone
    obtain ⟨hcap, hzero, -⟩ := drawBody_ok hu
    cases h.symm.trans (exec_draw_of_material (s := s) hzero hcap)
    exact exec_draw_of_material (s := s.keyDrawn _ q) hzero hcap
  · obtain ⟨u, hu, -⟩ := exec_done h hdone
    obtain ⟨hrnd, -⟩ | ⟨-, hcap, -⟩ := divBody_ok hu
    · cases hrnd
    · cases h.symm.trans (exec_div_of_digits (s := s) hcap)
      exact exec_div_of_digits (s := s.ivDecoded q) hcap
  · obtain ⟨u, hu, -⟩ := exec_done h hdone
    obtain ⟨hpw, hsalt, hzero, T, -, hT, -⟩ := stretchBody_ok hu
    rw [started_stretchMaterial] at hT
    have hpass : s.canStretch := ⟨hzero, hpw, hsalt⟩
    cases h.symm.trans (exec_stretch_of_material hpass hT)
    exact exec_stretch_of_material (s := s.stretched _ T) hpass ((stretchMaterial_stretched ..).trans hT)

end Sys2Proof.Machine
end

section
/-! SUPPORT. SHA-256, HMAC and PBKDF2 (`46_sha256_hmac_pbkdf2.md` R171 to R178): the lengths of what they answer, and
`F` as the running XOR of the iterates of HMAC. -/

namespace Sys2Proof.Machine

/-! ### SHA-256 and HMAC -/

@[simp] theorem length_be32inv (w : Word) : (be32inv w).length = 4 := rfl

/-- The block index of `F` as 4 bytes, for an index of one byte (R178). -/
theorem be32inv_toNat (j : Byte) : be32inv (BitVec.ofNat 32 j.toNat) = [0x00, 0x00, 0x00, j] := by
  have hzero (k : Nat) (hk : 8 ≤ k) : j.extractLsb' k 8 = 0 := by
    refine BitVec.eq_of_getLsbD_eq fun i _ => ?_
    rw [BitVec.getLsbD_extractLsb', BitVec.getLsbD_of_ge _ _ (by omega)]
    simp
  rw [BitVec.ofNat_toNat]
  simp [be32inv, BitVec.extractLsb'_setWidth_of_le, hzero]

@[simp] theorem length_sha256 (m : List Byte) : (sha256 m).length = 32 := by
  simp [sha256]

@[simp] theorem length_hmacSha256 (k m : List Byte) : (hmacSha256 k m).length = 32 :=
  length_sha256 _

theorem hmacKey_of_long {k : List Byte} (h : 64 < k.length) :
    hmacKey k = sha256 k ++ List.replicate 32 0 := by
  simp [hmacKey, h]

theorem hmacKey_of_short {k : List Byte} (h : ¬64 < k.length) :
    hmacKey k = k ++ List.replicate (64 - k.length) 0 := by
  simp [hmacKey, h]

theorem length_hmacKey (k : List Byte) : (hmacKey k).length = 64 := by
  by_cases h : 64 < k.length
  · simp [hmacKey_of_long h]
  · simp [hmacKey_of_short h]
    omega

/-! ### The function `F` of PBKDF2 -/

section

variable (p s : List Byte) (c i n : Nat)

/-- `U_(n+1)` of `F` (R178): HMAC applied `n` times to `U_1`, the HMAC of the salt and the block index. -/
def pbkdf2U : List Byte :=
  (hmacSha256 p)^[n] (hmacSha256 p (s ++ be32inv (BitVec.ofNat 32 i)))

theorem pbkdf2U_succ : pbkdf2U p s i (n + 1) = hmacSha256 p (pbkdf2U p s i n) :=
  Function.iterate_succ_apply' ..

/-- The loop of `F` by its last round, where its definition goes by the first. -/
theorem pbkdf2Loop_succ (u t : List Byte) :
    pbkdf2Loop p (n + 1) u t = xorBytes (pbkdf2Loop p n u t) ((hmacSha256 p)^[n + 1] u) := by
  induction n generalizing u t with
  | zero => rfl
  | succ n ih => exact ih (hmacSha256 p u) (xorBytes t (hmacSha256 p u))

theorem pbkdf2F_one : pbkdf2F p s 1 i = pbkdf2U p s i 0 := rfl

theorem pbkdf2F_succ (hc : 1 ≤ c) :
    pbkdf2F p s (c + 1) i = xorBytes (pbkdf2F p s c i) (pbkdf2U p s i c) := by
  obtain ⟨n, rfl⟩ := Nat.exists_eq_add_of_le' hc
  exact pbkdf2Loop_succ p n _ _

theorem length_pbkdf2Loop {u t : List Byte} (ht : t.length = 32) : (pbkdf2Loop p n u t).length = 32 := by
  induction n generalizing u t with
  | zero => exact ht
  | succ n ih => exact ih (by simp [ht])

@[simp] theorem length_pbkdf2F : (pbkdf2F p s c i).length = 32 :=
  length_pbkdf2Loop p _ (length_hmacSha256 ..)

/-- 48 bytes take two values of `F`, the second in half (R178). -/
theorem pbkdf2_48 : pbkdf2 p s c 48 = pbkdf2F p s c 1 ++ (pbkdf2F p s c 2).take 16 := by
  have htwo : pbkdf2 p s c 48 = (pbkdf2F p s c 1 ++ (pbkdf2F p s c 2 ++ [])).take 48 := rfl
  rw [htwo, List.append_nil, List.take_append, length_pbkdf2F, List.take_of_length_le (by simp)]

end

/-- Settles O50: `F` by its loop, HMAC by its padded key, and SHA-256 of the rule's three examples by computing it. -/
theorem pbkdfGives48Bytes : Obligations.PbkdfGives48Bytes := by
  refine ⟨fun p s c => ⟨?_, pbkdf2_48 p s c, length_pbkdf2F p s c⟩, fun p s j => ?_, fun k m k0 hk0 => ?_,
    length_sha256, by decide +kernel, by decide +kernel, by decide +kernel⟩
  · simp [pbkdf2_48]
  · refine ⟨fun n => pbkdf2U p s j.toNat (n - 1), ?_, fun n hn => ?_, pbkdf2F_one p s j.toNat,
      fun c hc => pbkdf2F_succ p s c j.toNat hc⟩
    · exact congrArg (fun b => hmacSha256 p (s ++ b)) (be32inv_toNat j)
    · obtain ⟨n, rfl⟩ := Nat.exists_eq_add_of_le' hn
      exact pbkdf2U_succ p s j.toNat n
  · obtain rfl : k0 = hmacKey k := by
      rw [hk0]
      split
      next h => exact (hmacKey_of_long h).symm
      next h => exact (hmacKey_of_short h).symm
    exact ⟨length_hmacKey k, rfl⟩

end Sys2Proof.Machine
end

section
/-! SUPPORT. The framing commands `SALTGEN` and `HDR` (`47_framing_system.md` R186 to R188): the one state each leaves
where its check passes, that state's bytes, and the causes of `HDR`. -/

namespace Sys2Proof.Machine

section

variable {s : State}

/-! ### `SALTGEN` -/

/-- The state `SALTGEN` leaves (R186, R163). -/
def State.salted (s : State) : State :=
  { s with mem := s.mem.write saltBase (s.randBytes 8), sLen := 8, randCount := s.randCount + 8,
           status := doneStatus s.status }

theorem exec_saltgen (s : State) : exec .saltgen s = .next s.salted := rfl

@[simp] theorem randBytes_length (s : State) (n : Nat) : (s.randBytes n).length = n := by
  simp [State.randBytes]

theorem salted_read_inside {j : Nat} (hj : j < 8) :
    s.salted.mem.read (0x200 + j) = Config.randByte (s.randCount + j) :=
  calc s.salted.mem.read (0x200 + j)
    _ = (s.randBytes 8).getD j 0 := Memory.read_write_inside s.mem saltBase _ j (by simpa using hj)
    _ = Config.randByte (s.randCount + j) := randBytes_getD hj

theorem salted_read_outside {a : Nat} (h : a < 0x200 ∨ 0x208 ≤ a) : s.salted.mem.read a = s.mem.read a :=
  Memory.read_write_outside s.mem saltBase (s.randBytes 8) a (by simpa [saltBase] using h)

/-! ### `HDR` -/

/-- The 16 bytes of the salted framing (R188): the marker, then the salt. -/
def State.saltedPrefix (s : State) : Block :=
  vecOf 16 (saltedMarker ++ s.mem.bytes saltBase 8)

/-- The state `HDR` leaves with the prefix `b` in its window (R187). -/
def State.framed (b : Block) (s : State) : State :=
  { s with hdr := b, status := doneStatus s.status }

theorem saltedPrefix_take (s : State) : s.saltedPrefix.toList.take 8 = saltedMarker := by
  have hlen : (saltedMarker ++ s.mem.bytes saltBase 8).length = 16 := by
    rw [List.length_append, Memory.bytes_length]
    rfl
  rw [State.saltedPrefix, toList_vecOf hlen]
  exact List.take_left' rfl

theorem byteAt_saltedPrefix {j : Nat} (hj : j < 8) : byteAt s.saltedPrefix (8 + j) = s.mem.read (0x200 + j) := by
  rw [State.saltedPrefix, byteAt_vecOf _ _ _ (by omega), List.getD_append_right _ _ _ _ (Nat.le_add_right 8 j),
    show 8 + j - saltedMarker.length = j from Nat.add_sub_cancel_left 8 j]
  exact Memory.bytes_getD s.mem saltBase 8 j hj

theorem exec_hdr_salted (h : s.sLen = 8) : exec (.hdr .salted) s = .next (s.framed s.saltedPrefix) :=
  runCommand_ok (body := hdrBody .salted) (if_pos h)

theorem exec_hdr_rawIv (h : s.status.ivV = true) : exec (.hdr .rawIv) s = .next (s.framed s.ivr) :=
  runCommand_ok (body := hdrBody .rawIv) (if_pos h)

theorem hdrBody_of_wrongSalt (h : s.sLen ≠ 8) : hdrBody .salted s = .error .saltNotEightBytes :=
  if_neg h

theorem hdrBody_of_noIv (h : s.status.ivV = false) : hdrBody .rawIv s = .error .missingIv :=
  if_neg (by simp [h])

end

/-- Settles O54: no check is made. -/
theorem saltgenResult : Obligations.SaltgenResult :=
  fun s => ⟨s.salted, exec_saltgen s, fun _ hj => salted_read_inside hj, fun _ ha => salted_read_outside ha, rfl⟩

/-- Settles O55: each framing by its one check. -/
theorem hdrResultAndErrors : Obligations.HdrResultAndErrors := by
  refine fun s => ⟨fun h => ?_, fun h => ?_, fun h => ?_, fun h => ?_⟩
  · exact ⟨_, exec_hdr_salted h, saltedPrefix_take s, fun j hj => byteAt_saltedPrefix hj, rfl⟩
  · exact exec_of_bodyOf_error (i := .hdr .salted) (hdrBody_of_wrongSalt (s := s.started) h)
  · exact exec_hdr_rawIv h
  · exact exec_of_bodyOf_error (i := .hdr .rawIv) (hdrBody_of_noIv (s := s.started) h)

end Sys2Proof.Machine
end

section
/-! SUPPORT. Error entry (`60_exceptions.md` R200 to R203): what a command that raised did, the causes of each check and
of each command's body, and `STATUS` after each cause. -/

namespace Sys2Proof.Machine

/-! ### How a command ends -/

/-- A command that ends with `ERR` raised a cause of its body: what completes leaves `ERR` clear. -/
theorem exec_raised {i : Instr} {s t : State} (h : exec i s = .next t) (herr : t.status.err = true) :
    ∃ c, bodyOf i s.started = .error c ∧ t = raise c s.started := by
  rw [exec_eq] at h
  rcases runCommand_next h with ⟨u, hu, rfl⟩ | hraise
  · have hclear := (bodyOf_keeps_working hu s.status.started_working).err
    exact absurd (hclear.symm.trans herr) Bool.false_ne_true
  · exact hraise

/-- Settles O10: the start of the command and its error entry write the outcome fields only. -/
theorem errorChangesOnlyStatus : Obligations.ErrorChangesOnlyStatus := by
  intro i s t h herr
  obtain ⟨c, -, rfl⟩ := exec_raised h herr
  exact ⟨rfl, c, c.mem_all, rfl, rfl⟩

/-- Settles O9: a completion has `DONE` and the outcome fields that the start cleared, an error entry has `ERR`. -/
theorem everyCommandCompletesOrRaises : Obligations.EveryCommandCompletesOrRaises := by
  intro i s
  obtain ⟨t, h⟩ := exec_answers i s
  refine ⟨t, h, ?_⟩
  rcases exec_next h with ⟨u, hu, rfl⟩ | ⟨c, rfl⟩
  · have hw := bodyOf_keeps_working hu s.status.started_working
    exact ⟨rfl, congrArg not hw.err.symm, fun _ => ⟨hw.errKind, hw.cause⟩⟩
  · exact ⟨rfl, rfl, nofun⟩

/-! ### The causes of the shared checks -/

/-- The causes of R127 a, in their order. -/
def payloadCauses : List Cause := [.lengthAboveCapacity, .zeroLengthPayload]

/-- The causes of R127 b, in their order. -/
def blockCauses : List Cause := [.shorterThanOneBlock, .notWholeBlocks]

/-- The cause of R138: under `np` no pad count is read. -/
def padCauses (np : Bool) : List Cause := if np then [] else [.padCountOutOfRange]

/-- The causes of the checks of R128 in a selected mode, in their order: ECB needs no IV. -/
def modeCauses (m : Mode) : List Cause :=
  .noKeySchedule :: (if m = .ecb then [] else [.missingIv]) ++ payloadCauses

section

variable {s : State} {c : Cause} {np : Bool} {m : Mode} {dir : Dir}

theorem payloadCause_mem (h : s.payloadCause = some c) : c ∈ payloadCauses := by
  unfold State.payloadCause at h
  split at h
  · cases h; decide
  · split at h
    · cases h; decide
    · cases h

theorem wholeBlocksCause_mem (h : s.wholeBlocksCause = some c) : c ∈ blockCauses := by
  unfold State.wholeBlocksCause at h
  split at h
  · cases h; decide
  · split at h
    · cases h; decide
    · cases h

theorem modeChecks_error (h : modeChecks (some m) s = .error c) : c ∈ modeCauses m := by
  simp only [modeChecks] at h
  split at h
  · cases h
    exact List.mem_append_left _ List.mem_cons_self
  · split at h
    · rename_i hiv
      cases h
      rw [modeCauses, if_neg hiv.1]
      decide
    · split at h
      · rename_i hp
        cases h
        exact List.mem_append_right _ (payloadCause_mem hp)
      · cases h

theorem padRemove_error {y : List Byte} (h : padRemove np y = .error c) : c ∈ padCauses np := by
  cases np with
  | true => cases h
  | false =>
    simp only [padRemove, Bool.false_eq_true, if_false] at h
    split at h
    · cases h
    · cases h; decide

/-- Only the unpadder can fail, so only decryption in ECB and CBC (R143). -/
theorem transform_error {rks : Vector Byte 240} {nr : Nat} {iv : Block} {x : List Byte}
    (h : transform m dir np rks nr iv x = .error c) : m ≠ .ctr ∧ dir = .decrypt ∧ c ∈ padCauses np := by
  by_cases hm : m = .ctr
  · subst hm
    rw [transform_ctr] at h
    cases h
  · cases dir with
    | encrypt =>
      rw [transform_encrypt hm] at h
      cases h
    | decrypt =>
      rw [transform_decrypt hm] at h
      exact ⟨hm, rfl, padRemove_error h⟩

/-! ### The causes of each command's body -/

theorem kexpBody_error (h : kexpBody s = .error c) : c ∈ [Cause.noCipherSelected, .missingKeyMaterial] := by
  unfold kexpBody at h
  split at h
  · cases h; decide
  · split at h
    · cases h
    · cases h; decide

theorem encbBody_error (h : encbBody s = .error c) : c ∈ [Cause.noKeySchedule] := by
  unfold encbBody at h
  split at h
  · cases h; decide
  · cases h

theorem decbBody_error (h : decbBody s = .error c) : c ∈ [Cause.noKeySchedule] := by
  unfold decbBody at h
  split at h
  · cases h; decide
  · cases h

theorem applyBody_error (h : applyBody (some m) dir s = .error c) :
    c ∈ modeCauses m ++ (if m = .ctr then [] else blockCauses) := by
  unfold applyBody at h
  split at h
  · rename_i hchecks
    cases h
    exact List.mem_append_left _ (modeChecks_error hchecks)
  · rename_i m' nr hchecks
    obtain ⟨hm, -⟩ := modeChecks_eq_ok.1 hchecks
    cases hm
    split at h
    · rename_i hw
      cases h
      by_cases hm : m = .ctr
      · rw [if_pos hm] at hw
        cases hw
      · rw [if_neg hm] at hw ⊢
        exact List.mem_append_right _ (wholeBlocksCause_mem hw)
    · cases h

theorem padaBody_error (h : padaBody np s = .error c) : c ∈ payloadCauses := by
  unfold padaBody at h
  split at h
  · rename_i hp
    cases h
    exact payloadCause_mem hp
  · cases h

theorem padrBody_error (h : padrBody np s = .error c) : c ∈ payloadCauses ++ blockCauses ++ padCauses np := by
  unfold padrBody at h
  split at h
  · rename_i hp
    cases h
    exact List.mem_append_left _ (List.mem_append_left _ (payloadCause_mem hp))
  · split at h
    · rename_i hw
      cases h
      exact List.mem_append_left _ (List.mem_append_right _ (wholeBlocksCause_mem hw))
    · split at h
      · rename_i hout
        cases h
        exact List.mem_append_right _ (padRemove_error hout)
      · cases h

theorem xformBody_error (h : xformBody (some m) dir np s = .error c) :
    c ∈ modeCauses m ∨ m ≠ .ctr ∧ dir = .decrypt ∧ c ∈ blockCauses ++ padCauses np := by
  unfold xformBody at h
  split at h
  · rename_i hchecks
    cases h
    exact .inl (modeChecks_error hchecks)
  · rename_i m' nr hchecks
    obtain ⟨hm, -⟩ := modeChecks_eq_ok.1 hchecks
    cases hm
    split at h
    · rename_i hw
      cases h
      by_cases hneeds : m ≠ .ctr ∧ dir = .decrypt
      · rw [if_pos hneeds] at hw
        exact .inr ⟨hneeds.1, hneeds.2, List.mem_append_left _ (wholeBlocksCause_mem hw)⟩
      · rw [if_neg hneeds] at hw
        cases hw
    · split at h
      · rename_i hout
        cases h
        obtain ⟨hm, hdir, hc⟩ := transform_error hout
        exact .inr ⟨hm, hdir, List.mem_append_right _ hc⟩
      · cases h

theorem drawBody_error {ks : Option KeySize} {q : Bool} (h : drawBody ks q s = .error c) :
    c ∈ [Cause.lengthAboveCapacity, .missingKeyMaterial] := by
  simp only [drawBody] at h
  split at h
  · cases h; decide
  · split at h
    · cases h; decide
    · cases h

theorem divBody_error {q rnd : Bool} (h : divBody q rnd s = .error c) :
    c ∈ if rnd then [] else [Cause.lengthAboveCapacity] := by
  cases rnd with
  | true => cases h
  | false =>
    simp only [divBody, Bool.false_eq_true, if_false] at h
    split at h
    · cases h; decide
    · cases h

/-- Only the bridge can reject (R162): PBKDF2 always answers. -/
theorem stretchBody_error {ks : Option KeySize} {kdf : Kdf} (h : stretchBody ks kdf s = .error c) :
    c ∈ [Cause.lengthAboveCapacity, .missingKeyMaterial] ++ (if kdf = .pbkdf2 then [] else [.stretchRejected]) := by
  unfold stretchBody at h
  split at h
  · cases h
    exact List.mem_append_left _ (by decide)
  · split at h
    · cases h
      exact List.mem_append_left _ (by decide)
    · split at h
      · rename_i hT
        cases h
        cases kdf with
        | pbkdf2 => cases hT
        | argon2id => decide
      · cases h

theorem hdrBody_error {fr : Framing} (h : hdrBody fr s = .error c) :
    c ∈ if fr = .salted then [Cause.saltNotEightBytes] else [.missingIv] := by
  cases fr with
  | salted | rawIv =>
    simp only [hdrBody] at h
    split at h
    · cases h
    · cases h; decide

end

/-- Settles O12: the numbers of the causes of each body. For `XFORM` the statement names the IV's cause before the
schedule's. -/
theorem causesOfEachCommand : Obligations.CausesOfEachCommand := by
  intro i s t h herr
  obtain ⟨c, hc, rfl⟩ := exec_raised h herr
  change c.number ∈ _
  cases i with
  | kexp => exact List.mem_map_of_mem (kexpBody_error hc)
  | encb => exact List.mem_map_of_mem (encbBody_error hc)
  | decb => exact List.mem_map_of_mem (decbBody_error hc)
  | apply md dir =>
    cases md with
    | none => cases hc; exact List.mem_singleton_self _
    | some m =>
      have hmem := applyBody_error hc
      cases m <;> exact List.mem_map_of_mem hmem
  | pada np => exact List.mem_map_of_mem (padaBody_error hc)
  | padr np =>
    have hmem := padrBody_error hc
    cases np <;> exact List.mem_map_of_mem hmem
  | xform md dir np =>
    cases md with
    | none => cases hc; exact List.mem_singleton_self _
    | some m =>
      rcases xformBody_error hc with hmode | ⟨hm, rfl, hpad⟩
      · refine List.mem_append_left _ ?_
        have hmode := List.mem_map_of_mem (f := Cause.number) hmode
        cases m with
        | ecb => exact hmode
        | cbc | ctr => exact (List.Perm.swap _ _ _).mem_iff.1 hmode
      · refine List.mem_append_right _ ?_
        cases m with
        | ecb | cbc => cases np <;> exact List.mem_map_of_mem hpad
        | ctr => exact absurd rfl hm
  | draw ks q => exact List.mem_map_of_mem (drawBody_error hc)
  | div q rnd =>
    have hmem := divBody_error hc
    cases rnd <;> exact List.mem_map_of_mem hmem
  | stretch ks kdf =>
    have hmem := stretchBody_error hc
    cases kdf <;> exact List.mem_map_of_mem hmem
  | saltgen | clr => cases hc
  | hdr fr =>
    have hmem := hdrBody_error hc
    cases fr <;> exact List.mem_map_of_mem hmem

/-! ### `STATUS` after each cause -/

/-- Error entry sets all the low 16 bits of `STATUS`: what it keeps, flags and advisories, stands above them (R21). -/
theorem raised_word_setWidth (c : Cause) (st : Status) :
    (st.raised c).word.setWidth 16 = (Status.reset.raised c).word.setWidth 16 := by
  refine BitVec.eq_of_getLsbD_eq fun n hn => ?_
  rw [BitVec.getLsbD_setWidth, BitVec.getLsbD_setWidth, status_word_getLsbD _ (by omega),
    status_word_getLsbD _ (by omega)]
  interval_cases n <;> rfl

/-- Settles O11: the low 16 bits are those of the cause raised on the reset value of `STATUS`. -/
theorem causeTable : Obligations.CauseTable := by
  intro st
  simp only [raised_word_setWidth _ st]
  decide

end Sys2Proof.Machine
end

section
/-! SUPPORT. The reset (`70_reset_and_hazards.md` R220, R222): the reset event, and each command on the reset state. -/

namespace Sys2Proof.Machine

/-- Settles O7: the reset event is allowed in every state, and nothing of the core's state enters its result. -/
theorem resetEventRestoresReset : Obligations.ResetEventRestoresReset := by
  intro s rest hp
  rw [step_event hp, hostEvent_of_allowed _ rfl]
  rfl

/-- A command whose body raises `c` on the reset state leaves `STATUS` at 0 but for the outcome. -/
theorem exec_reset_of_error {i : Instr} {w : Word} (c : Cause) (h : bodyOf i State.reset.started = .error c)
    (hw : (Status.reset.raised c).word = w) : ∃ t, exec i State.reset = .next t ∧ t.status.word = w :=
  ⟨_, exec_of_bodyOf_error h, hw⟩

/-- Settles O8: on a state with no key size, no schedule, no IV and all lengths 0, the first check that fails names the
cause; `DIV` of no digits, `SALTGEN` and `CLR` complete. -/
theorem commandsOnResetState : Obligations.CommandsOnResetState := by
  refine ⟨?kexp, ?encb, ?decb, fun m dir => ?apply, fun m dir np => ?xform, fun np => ?pada, fun np => ?padr,
    fun ks q => ?draw, fun ks kdf => ?stretch, ?div, ?hdrSalted, ?hdrRawIv, ?saltgen, ?clr⟩
  case kexp => exact exec_reset_of_error .noCipherSelected rfl (by decide)
  case encb | decb | apply | xform => exact exec_reset_of_error .noKeySchedule rfl (by decide)
  case pada | padr => exact exec_reset_of_error .zeroLengthPayload rfl (by decide)
  case draw | stretch => exact exec_reset_of_error .missingKeyMaterial rfl (by decide)
  case div => exact ⟨_, exec_div_of_digits (by decide), by decide, byteAt_replicate_zero 16⟩
  case hdrSalted => exact exec_reset_of_error .saltNotEightBytes rfl (by decide)
  case hdrRawIv => exact exec_reset_of_error .missingIv rfl (by decide)
  case saltgen => exact ⟨_, exec_saltgen State.reset, by decide⟩
  case clr => exact ⟨_, exec_clr State.reset, by decide⟩

end Sys2Proof.Machine
end
